-- ==== Sys2Proof/Word.lean ====
section
/-! DEFINITION. The word types of the sandchip CORE (spec/00_scope.md R8): unsigned values of a fixed
width, bit 0 the least significant. -/

namespace Sys2Proof

/-- An 8-bit value: a general register, a memory cell, an immediate `kk`. -/
abbrev Byte := BitVec 8

/-- A 16-bit value: an instruction word, `pc`, `I`, a stack entry. -/
abbrev Word := BitVec 16

/-- A 12-bit value: the address operand `nnn`. -/
abbrev Addr12 := BitVec 12

/-- A 4-bit field of an instruction word. -/
abbrev Nibble := BitVec 4

/-- A register number 0 to 15 (R14); 15 is the flag register. -/
abbrev Reg := Fin 16

end Sys2Proof
end

