-- ==== Sys2Proof/Config.lean ====
section
/-! DEFINITION. What an implementation fixes and what the host feeds in: the open parameters of
spec/00_scope.md R7, the fixed parameters, and the inputs of one step (spec/50_interfaces.md R108) with
the free value that stands for an input nobody has named. -/

namespace Sys2Proof

/-- The open parameters of R7. `TIME_WIDTH` is not among them: the model uses the unbounded natural
number R7 asks for (log 14). -/
structure Config where
  /-- `FB_WIDTH`: columns of the framebuffer. -/
  fbWidth : Nat
  /-- `FB_HEIGHT`: rows of the framebuffer. -/
  fbHeight : Nat
  /-- `FONT_TABLE`: the bytes reset puts at addresses 0 to 79. -/
  fontTable : List Byte
  /-- `SYS_0NNN_RECOGNISED`: a word 0nnn is a no-op without report (R58). -/
  sys0nnnRecognised : Bool
deriving DecidableEq, Repr

/-- The constraint R7 and D15 put on the framebuffer size, and the length R7 gives the font table. -/
abbrev Config.wf (c : Config) : Prop :=
  8 ≤ c.fbWidth ∧ 15 ≤ c.fbHeight ∧ c.fontTable.length = 80

/-- `MEM_SIZE` of R7: addresses 0 to 4095. -/
abbrev Config.memSize : Nat := 4096

/-- `FONT_BYTES` of R7: the font occupies addresses 0 to 79 (`FONT_BASE` is 0). -/
abbrev Config.fontBytes : Nat := 80

/-- `NUM_KEYS` of R7. -/
abbrev Config.numKeys : Nat := 16

/-- `STACK_DEPTH` of R7. -/
abbrev Config.stackDepth : Nat := 16

/-- The three inputs of one step (R108): the keypad, bit `k` is `keys[k]` and 1 means pressed (R111);
the wall clock in milliseconds (R112); the random byte (R113). -/
structure StepInput where
  keys : BitVec 16
  now : Nat
  rnd : Byte
deriving DecidableEq, Repr, Inhabited

/-- FREE VALUE (log 1): the inputs of a step for which the host has named none. It has no body, so
nothing can be proved of it; the argument is the counter `State.samples`, so two such steps have
unrelated inputs (R113: "a free draw"; R148: `now` is unconstrained by the number of steps). -/
opaque Config.freeInput : Nat → StepInput

end Sys2Proof
end

