-- ==== Sys2Proof/Machine/Defaults.lean ====
section
/-! DEFINITION. The default values of the open parameters (spec/00_scope.md R7) and the timer's tick, the
literals the spec calls unaudited or taken from general knowledge (log 5, log 19). -/

namespace Sys2Proof.Machine

/-- The default `FONT_TABLE` of spec/10_state.md R18, glyph 0 first, five bytes a glyph. -/
def defaultFont : List Byte :=
  [0xF0, 0x90, 0x90, 0x90, 0xF0] ++ [0x20, 0x60, 0x20, 0x20, 0x70] ++
  [0xF0, 0x10, 0xF0, 0x80, 0xF0] ++ [0xF0, 0x10, 0xF0, 0x10, 0xF0] ++
  [0x90, 0x90, 0xF0, 0x10, 0x10] ++ [0xF0, 0x80, 0xF0, 0x10, 0xF0] ++
  [0xF0, 0x80, 0xF0, 0x90, 0xF0] ++ [0xF0, 0x10, 0x20, 0x40, 0x40] ++
  [0xF0, 0x90, 0xF0, 0x90, 0xF0] ++ [0xF0, 0x90, 0xF0, 0x10, 0xF0] ++
  [0xF0, 0x90, 0xF0, 0x90, 0x90] ++ [0xE0, 0x90, 0xE0, 0x90, 0xE0] ++
  [0xF0, 0x80, 0x80, 0x80, 0xF0] ++ [0xE0, 0x90, 0x90, 0x90, 0xE0] ++
  [0xF0, 0x80, 0xF0, 0x80, 0xF0] ++ [0xF0, 0x80, 0xF0, 0x80, 0x80]

/-- The parameters at the defaults of R7: 64 × 32 pixels, the font above, words 0nnn unrecognised. -/
def defaultConfig : Config :=
  { fbWidth := 64, fbHeight := 32, fontTable := defaultFont, sys0nnnRecognised := false }

/-- `DT_TICK_MS`: one count of the delay timer is 15 ms (R7; spec/45_timers.md R102). -/
def dtTickMs : Nat := 15

/-- `ROM_BASE`: the entry point and the address a program is loaded at (R7). -/
def romBase : Nat := 0x200

/-- `ROM_MAX` = `MEM_SIZE` − `ROM_BASE` (R7). -/
def romMax : Nat := Config.memSize - romBase

end Sys2Proof.Machine
end

