-- ==== Sys2Proof/Machine/State.lean ====
section
/-! DEFINITION. The state of the sandchip CORE (spec/10_state.md R13 to R30) as plain data, the state after
reset (spec/70_reset_and_hazards.md R139), and the reasons a step can stop. -/

namespace Sys2Proof.Machine

/-- Memory as the cells that differ from the reset contents, addresses strictly rising (log 6). -/
abbrev Memory := List Host.Cell

/-- The framebuffer `fb[r][c]`: a list of rows, a row a list of pixels, true = set (R24). -/
abbrev Framebuffer := List (List Bool)

/-- The fault causes of spec/60_exceptions.md R121; `noFault` is the cause 0 `NONE`. -/
inductive FaultCause where
  | noFault
  | stackOverflow
  | stackUnderflow
  | fetchOutOfRange
  | memOutOfRange
  | keyIndexOutOfRange
deriving DecidableEq, Repr

/-- The 3-bit code of a cause (R121); 6 and 7 are not used. -/
def FaultCause.code : FaultCause → BitVec 3
  | .noFault => 0
  | .stackOverflow => 1
  | .stackUnderflow => 2
  | .fetchOutOfRange => 3
  | .memOutOfRange => 4
  | .keyIndexOutOfRange => 5

/-- The fault record (R29). -/
structure FaultRecord where
  cause : FaultCause
  pc : Word
  info : Word
deriving DecidableEq, Repr

/-- The outputs of one step (spec/50_interfaces.md R108), as they stand when it has ended (log 4). -/
structure StepOutput where
  /-- `some (unrec_pc, unrec_word)` when `unrec_valid` is 1 (R117). -/
  unrec : Option (Word × Word)
  /-- `fb_written` (R115). -/
  fbWritten : Bool
  /-- `fault_raised` (R108, R123). -/
  faultRaised : Bool
deriving DecidableEq, Repr

/-- No output active. -/
def StepOutput.quiet : StepOutput := { unrec := none, fbWritten := false, faultRaised := false }

/-- The whole state: the tuple of R13, then the model's own fields (INVENTORY.md, State). -/
structure State where
  /-- `V[0..15]` (R14); register 15 is the flag register (R15). -/
  v : Vector Byte 16
  /-- `pc` (R19). -/
  pc : Word
  /-- The address register `I` (R22). -/
  i : Word
  /-- `stack[0..15]` (R23). -/
  stack : Vector Word 16
  /-- `sp`, the number of entries in use, 0 to 16 (R23; log 10). -/
  sp : Fin 17
  /-- `mem[0..4095]` (R17). -/
  mem : Memory
  /-- `fb` (R24). -/
  fb : Framebuffer
  /-- `dirty` (R25). -/
  dirty : Bool
  /-- `dt_value` (R26). -/
  dtValue : Byte
  /-- `dt_start`, in milliseconds (R26). -/
  dtStart : Nat
  /-- The sound timer `ST` (R27). -/
  st : Byte
  /-- The fault record (R29). -/
  fault : FaultRecord
  /-- MODEL: the open parameters, which no step changes (R7; log 5). -/
  cfg : Config
  /-- MODEL: the sampled inputs of the step in progress (R108; log 2). -/
  input : StepInput
  /-- MODEL: the inputs the host supplies with its next steps, the next one first (R108; log 1). -/
  pending : List StepInput
  /-- MODEL: how many free inputs have been drawn (log 1). -/
  samples : Nat
  /-- MODEL: the outputs of the last step (R108; log 4). -/
  out : StepOutput
deriving DecidableEq, Repr

/-- The reasons a step stops with a fault: there are none. Every fault of R121 is a recorded state and
the step goes on to it (spec/90_conflicts.md C3, "the step function is total"; log 7). Safe: no run
ends where the hardware goes on. -/
inductive Fault where
deriving DecidableEq, Repr

/-- The reasons a step has no meaning. -/
inductive Refusal where
  /-- Raised by `exec` alone, for an instruction that has no meaning yet; no arm does so now. Safe. -/
  | notModelled (mnemonic : String)
deriving DecidableEq, Repr

/-- What a meaning answers. -/
abbrev Result := Host.Outcome State Fault Refusal

/-- The state after `Reset(now)` with parameters `c` (R138, R139; spec/50_interfaces.md R109). -/
def State.resetWith (c : Config) (now : Nat) : State where
  v := Vector.replicate 16 0
  pc := BitVec.ofNat 16 romBase
  i := 0
  stack := Vector.replicate 16 0
  sp := 0
  mem := []
  fb := List.replicate c.fbHeight (List.replicate c.fbWidth false)
  dirty := true
  dtValue := 0
  dtStart := now
  st := 0
  fault := { cause := .noFault, pc := 0, info := 0 }
  cfg := c
  input := { keys := 0, now := 0, rnd := 0 }
  pending := []
  samples := 0
  out := .quiet

/-- The machine right after reset: the default parameters, reset at time 0 (log 3, log 5). -/
def State.reset : State := State.resetWith defaultConfig 0

end Sys2Proof.Machine
end

