-- ==== Sys2Proof/Machine/Flags.lean ====
section
/-! DEFINITION. The values an instruction puts into the flag register `V[15]` (spec/10_state.md R15):
always 0x00 or 0x01. -/

namespace Sys2Proof.Machine

/-- A flag as the byte the flag register holds (R15). -/
def flagByte (f : Bool) : Byte := if f then 1 else 0

/-- Carry out of `ADD Vx, Vy` (R79): the sum exceeds 255. -/
def carryOut (a b : Byte) : Bool := decide (255 < a.toNat + b.toNat)

/-- "NOT borrow" of `SUB` and `SUBN` (R80, R81): minuend ≥ subtrahend. -/
def notBorrow (minuend subtrahend : Byte) : Bool := decide (subtrahend.toNat ≤ minuend.toNat)

/-- The bit `SHR` shifts out (R82): bit 0. -/
def shiftedOutRight (a : Byte) : Bool := a.getLsbD 0

/-- The bit `SHL` shifts out (R83): bit 7. -/
def shiftedOutLeft (a : Byte) : Bool := a.getLsbD 7

end Sys2Proof.Machine
end

