-- ==== Sys2Proof/Syntax.lean ====
section
/-! DEFINITION. The 34 instructions of spec/opcode_table.json, one constructor per row, with the operand
fields of spec/30_encoding.md R47 and R49. A nibble the decoder ignores (the fourth nibble of families 5
and 9, R55; the `y` of the shifts, R53) is kept as a field, so that no bit of a word is lost (log 17). -/

namespace Sys2Proof

/-- An instruction. `x`, `y` are register numbers, `kk` the 8-bit immediate, `nnn` the 12-bit address,
`z` an ignored nibble. The row count `n` of `drw` is a number; WellFormed.lean bounds it. -/
inductive Instr where
  /-- 00E0 `CLS` (R95). -/
  | cls
  /-- 00EE `RET` (R63). -/
  | ret
  /-- 1nnn `JP nnn` (R60). -/
  | jp (nnn : Addr12)
  /-- 2nnn `CALL nnn` (R62). -/
  | call (nnn : Addr12)
  /-- 3xkk `SE Vx, kk` (R66). -/
  | seImm (x : Reg) (kk : Byte)
  /-- 4xkk `SNE Vx, kk` (R67). -/
  | sneImm (x : Reg) (kk : Byte)
  /-- 5xyz `SE Vx, Vy` (R68); `z` is ignored. -/
  | seReg (x y : Reg) (z : Nibble)
  /-- 6xkk `LD Vx, kk` (R73). -/
  | ldImm (x : Reg) (kk : Byte)
  /-- 7xkk `ADD Vx, kk` (R75). -/
  | addImm (x : Reg) (kk : Byte)
  /-- 8xy0 `LD Vx, Vy` (R74). -/
  | ldReg (x y : Reg)
  /-- 8xy1 `OR Vx, Vy` (R76). -/
  | orReg (x y : Reg)
  /-- 8xy2 `AND Vx, Vy` (R77). -/
  | andReg (x y : Reg)
  /-- 8xy3 `XOR Vx, Vy` (R78). -/
  | xorReg (x y : Reg)
  /-- 8xy4 `ADD Vx, Vy` (R79). -/
  | addReg (x y : Reg)
  /-- 8xy5 `SUB Vx, Vy` (R80). -/
  | subReg (x y : Reg)
  /-- 8xy6 `SHR Vx` (R82); `y` is ignored. -/
  | shr (x y : Reg)
  /-- 8xy7 `SUBN Vx, Vy` (R81). -/
  | subnReg (x y : Reg)
  /-- 8xyE `SHL Vx` (R83); `y` is ignored. -/
  | shl (x y : Reg)
  /-- 9xyz `SNE Vx, Vy` (R69); `z` is ignored. -/
  | sneReg (x y : Reg) (z : Nibble)
  /-- Annn `LD I, nnn` (R87). -/
  | ldI (nnn : Addr12)
  /-- Bnnn `JP V0, nnn` (R61). -/
  | jpV0 (nnn : Addr12)
  /-- Cxkk `RND Vx, kk` (R84). -/
  | rnd (x : Reg) (kk : Byte)
  /-- Dxyn `DRW Vx, Vy, n` (R94); `n` rows. -/
  | drw (x y : Reg) (n : Nat)
  /-- Ex9E `SKP Vx` (R70). -/
  | skp (x : Reg)
  /-- ExA1 `SKNP Vx` (R71). -/
  | sknp (x : Reg)
  /-- Fx07 `LD Vx, DT` (R98). -/
  | ldVxDT (x : Reg)
  /-- Fx0A `LD Vx, K` (R104). -/
  | ldVxK (x : Reg)
  /-- Fx15 `LD DT, Vx` (R99). -/
  | ldDTVx (x : Reg)
  /-- Fx18 `LD ST, Vx` (R100). -/
  | ldSTVx (x : Reg)
  /-- Fx1E `ADD I, Vx` (R88). -/
  | addI (x : Reg)
  /-- Fx29 `LD F, Vx` (R89). -/
  | ldF (x : Reg)
  /-- Fx33 `LD B, Vx` (R90). -/
  | ldB (x : Reg)
  /-- Fx55 `LD [I], Vx` (R91). -/
  | storeRegs (x : Reg)
  /-- Fx65 `LD Vx, [I]` (R92). -/
  | loadRegs (x : Reg)
deriving DecidableEq, Repr

end Sys2Proof
end

