-- ==== Sys2Proof/Decode.lean ====
section
/-! DEFINITION. Decoding and encoding (spec/30_encoding.md). The decoder is a total function of the word
alone (R51); it works on bytes, high byte first (spec/20_memory.md R33), and names what it rejects. -/

namespace Sys2Proof

/-! ## Fields of a word (R47) -/

/-- `n1 = op[15:12]`, the family nibble. -/
def fieldFamily (op : Word) : Nibble := op.extractLsb' 12 4

/-- `x = op[11:8]`. -/
def fieldX (op : Word) : Reg := (op.extractLsb' 8 4).toFin

/-- `y = op[7:4]`. -/
def fieldY (op : Word) : Reg := (op.extractLsb' 4 4).toFin

/-- `n = op[3:0]`. -/
def fieldN (op : Word) : Nibble := op.extractLsb' 0 4

/-- `kk = op[7:0]`. -/
def fieldKK (op : Word) : Byte := op.extractLsb' 0 8

/-- `nnn = op[11:0]`. -/
def fieldNNN (op : Word) : Addr12 := op.extractLsb' 0 12

/-! ## Decoding -/

/-- Why the decoder gives no instruction. -/
inductive DecodeReject where
  /-- Fewer than two bytes: an instruction is exactly two (R46). -/
  | truncated
  /-- The word matches no row of the opcode map (R56). -/
  | unrecognised (op : Word)
deriving DecidableEq, Repr

/-- Family 0 (R52): two words, matched on all 16 bits. -/
def decodeFamily0 (op : Word) : Option Instr :=
  if op = 0x00E0#16 then some .cls else if op = 0x00EE#16 then some .ret else none

/-- Family 8 (R53): the discriminant is the last nibble. -/
def decodeFamily8 (x y : Reg) (n : Nat) : Option Instr :=
  match n with
  | 0x0 => some (.ldReg x y)
  | 0x1 => some (.orReg x y)
  | 0x2 => some (.andReg x y)
  | 0x3 => some (.xorReg x y)
  | 0x4 => some (.addReg x y)
  | 0x5 => some (.subReg x y)
  | 0x6 => some (.shr x y)
  | 0x7 => some (.subnReg x y)
  | 0xE => some (.shl x y)
  | _ => none

/-- Family E (R54): the discriminant is the low byte. -/
def decodeFamilyE (x : Reg) (kk : Nat) : Option Instr :=
  match kk with
  | 0x9E => some (.skp x)
  | 0xA1 => some (.sknp x)
  | _ => none

/-- Family F (R54): the discriminant is the low byte. -/
def decodeFamilyF (x : Reg) (kk : Nat) : Option Instr :=
  match kk with
  | 0x07 => some (.ldVxDT x)
  | 0x0A => some (.ldVxK x)
  | 0x15 => some (.ldDTVx x)
  | 0x18 => some (.ldSTVx x)
  | 0x1E => some (.addI x)
  | 0x29 => some (.ldF x)
  | 0x33 => some (.ldB x)
  | 0x55 => some (.storeRegs x)
  | 0x65 => some (.loadRegs x)
  | _ => none

/-- The dispatch of R51 over a 16-bit word; `none` is "unrecognised" (R56, R57). -/
def decodeWord (op : Word) : Option Instr :=
  match (fieldFamily op).toNat with
  | 0x0 => decodeFamily0 op
  | 0x1 => some (.jp (fieldNNN op))
  | 0x2 => some (.call (fieldNNN op))
  | 0x3 => some (.seImm (fieldX op) (fieldKK op))
  | 0x4 => some (.sneImm (fieldX op) (fieldKK op))
  | 0x5 => some (.seReg (fieldX op) (fieldY op) (fieldN op))
  | 0x6 => some (.ldImm (fieldX op) (fieldKK op))
  | 0x7 => some (.addImm (fieldX op) (fieldKK op))
  | 0x8 => decodeFamily8 (fieldX op) (fieldY op) (fieldN op).toNat
  | 0x9 => some (.sneReg (fieldX op) (fieldY op) (fieldN op))
  | 0xA => some (.ldI (fieldNNN op))
  | 0xB => some (.jpV0 (fieldNNN op))
  | 0xC => some (.rnd (fieldX op) (fieldKK op))
  | 0xD => some (.drw (fieldX op) (fieldY op) (fieldN op).toNat)
  | 0xE => decodeFamilyE (fieldX op) (fieldKK op).toNat
  | 0xF => decodeFamilyF (fieldX op) (fieldKK op).toNat
  | _ => none

/-- The word two fetched bytes make: high byte first (spec/20_memory.md R33). -/
def wordOfBytes (hi lo : Byte) : Word := hi ++ lo

/-- The instruction at the front of a byte sequence and the bytes after it, or the reason there is
none. -/
def decode : List Byte → Except DecodeReject (Instr × List Byte)
  | hi :: lo :: rest =>
    match decodeWord (wordOfBytes hi lo) with
    | some i => .ok (i, rest)
    | none => .error (.unrecognised (wordOfBytes hi lo))
  | _ => .error .truncated

/-! ## Encoding, from the same layouts (R49) -/

/-- The 4 bits of a register number. -/
def regBits (x : Reg) : Nibble := BitVec.ofFin x

/-- Format A: `n1 | nnn`. -/
def formatA (n1 : Nibble) (nnn : Addr12) : Word := n1 ++ nnn

/-- Formats XK and XS: `n1 | x | kk`. -/
def formatXK (n1 : Nibble) (x : Reg) (kk : Byte) : Word := (n1 ++ regBits x : Byte) ++ kk

/-- Formats XY and XYN: `n1 | x | y | n`. -/
def formatXYN (n1 : Nibble) (x y : Reg) (n : Nibble) : Word :=
  (n1 ++ regBits x : Byte) ++ (regBits y ++ n : Byte)

/-- The word of an instruction (the opcode map of R52 to R55). -/
def encode : Instr → Word
  | .cls => 0x00E0#16
  | .ret => 0x00EE#16
  | .jp nnn => formatA 0x1#4 nnn
  | .call nnn => formatA 0x2#4 nnn
  | .seImm x kk => formatXK 0x3#4 x kk
  | .sneImm x kk => formatXK 0x4#4 x kk
  | .seReg x y z => formatXYN 0x5#4 x y z
  | .ldImm x kk => formatXK 0x6#4 x kk
  | .addImm x kk => formatXK 0x7#4 x kk
  | .ldReg x y => formatXYN 0x8#4 x y 0x0#4
  | .orReg x y => formatXYN 0x8#4 x y 0x1#4
  | .andReg x y => formatXYN 0x8#4 x y 0x2#4
  | .xorReg x y => formatXYN 0x8#4 x y 0x3#4
  | .addReg x y => formatXYN 0x8#4 x y 0x4#4
  | .subReg x y => formatXYN 0x8#4 x y 0x5#4
  | .shr x y => formatXYN 0x8#4 x y 0x6#4
  | .subnReg x y => formatXYN 0x8#4 x y 0x7#4
  | .shl x y => formatXYN 0x8#4 x y 0xE#4
  | .sneReg x y z => formatXYN 0x9#4 x y z
  | .ldI nnn => formatA 0xA#4 nnn
  | .jpV0 nnn => formatA 0xB#4 nnn
  | .rnd x kk => formatXK 0xC#4 x kk
  | .drw x y n => formatXYN 0xD#4 x y (BitVec.ofNat 4 n)
  | .skp x => formatXK 0xE#4 x 0x9E#8
  | .sknp x => formatXK 0xE#4 x 0xA1#8
  | .ldVxDT x => formatXK 0xF#4 x 0x07#8
  | .ldVxK x => formatXK 0xF#4 x 0x0A#8
  | .ldDTVx x => formatXK 0xF#4 x 0x15#8
  | .ldSTVx x => formatXK 0xF#4 x 0x18#8
  | .addI x => formatXK 0xF#4 x 0x1E#8
  | .ldF x => formatXK 0xF#4 x 0x29#8
  | .ldB x => formatXK 0xF#4 x 0x33#8
  | .storeRegs x => formatXK 0xF#4 x 0x55#8
  | .loadRegs x => formatXK 0xF#4 x 0x65#8

/-- The high byte of a word, `op[15:8]`: the byte at the lower address (R33). -/
def highByte (op : Word) : Byte := op.extractLsb' 8 8

/-- The low byte of a word, `op[7:0]`. -/
def lowByte (op : Word) : Byte := op.extractLsb' 0 8

/-- The bytes of an instruction as memory holds them: high byte first (R33). -/
def encodeBytes (i : Instr) : List Byte := [highByte (encode i), lowByte (encode i)]

/-! ## The opcode table as the spec prints it -/

/-- One row of the opcode map: a word is of the row when `(op AND mask) = pattern`. -/
structure OpcodeRow where
  mask : Word
  pattern : Word
deriving DecidableEq, Repr

/-- The row of spec/opcode_table.json an instruction belongs to. -/
def opcodeRow : Instr → OpcodeRow
  | .cls => ⟨0xFFFF, 0x00E0⟩
  | .ret => ⟨0xFFFF, 0x00EE⟩
  | .jp _ => ⟨0xF000, 0x1000⟩
  | .call _ => ⟨0xF000, 0x2000⟩
  | .seImm _ _ => ⟨0xF000, 0x3000⟩
  | .sneImm _ _ => ⟨0xF000, 0x4000⟩
  | .seReg _ _ _ => ⟨0xF000, 0x5000⟩
  | .ldImm _ _ => ⟨0xF000, 0x6000⟩
  | .addImm _ _ => ⟨0xF000, 0x7000⟩
  | .ldReg _ _ => ⟨0xF00F, 0x8000⟩
  | .orReg _ _ => ⟨0xF00F, 0x8001⟩
  | .andReg _ _ => ⟨0xF00F, 0x8002⟩
  | .xorReg _ _ => ⟨0xF00F, 0x8003⟩
  | .addReg _ _ => ⟨0xF00F, 0x8004⟩
  | .subReg _ _ => ⟨0xF00F, 0x8005⟩
  | .shr _ _ => ⟨0xF00F, 0x8006⟩
  | .subnReg _ _ => ⟨0xF00F, 0x8007⟩
  | .shl _ _ => ⟨0xF00F, 0x800E⟩
  | .sneReg _ _ _ => ⟨0xF000, 0x9000⟩
  | .ldI _ => ⟨0xF000, 0xA000⟩
  | .jpV0 _ => ⟨0xF000, 0xB000⟩
  | .rnd _ _ => ⟨0xF000, 0xC000⟩
  | .drw _ _ _ => ⟨0xF000, 0xD000⟩
  | .skp _ => ⟨0xF0FF, 0xE09E⟩
  | .sknp _ => ⟨0xF0FF, 0xE0A1⟩
  | .ldVxDT _ => ⟨0xF0FF, 0xF007⟩
  | .ldVxK _ => ⟨0xF0FF, 0xF00A⟩
  | .ldDTVx _ => ⟨0xF0FF, 0xF015⟩
  | .ldSTVx _ => ⟨0xF0FF, 0xF018⟩
  | .addI _ => ⟨0xF0FF, 0xF01E⟩
  | .ldF _ => ⟨0xF0FF, 0xF029⟩
  | .ldB _ => ⟨0xF0FF, 0xF033⟩
  | .storeRegs _ => ⟨0xF0FF, 0xF055⟩
  | .loadRegs _ => ⟨0xF0FF, 0xF065⟩

/-! ## Words as spec/opcode_table.json numbers them -/

/-- The instruction the decoder reads from a word of `nbits` bits numbered as the opcode table numbers
them: the hardware stores its high byte first, so those two bytes go to the decoder. -/
def decodeTableWord (nbits w : Nat) : Option Instr :=
  let op : Word := BitVec.ofNat 16 (w % 2 ^ nbits)
  match decode [highByte op, lowByte op] with
  | .ok (i, _) => some i
  | .error _ => none

end Sys2Proof
end

