-- ==== Sys2Proof/Machine/Operands.lean ====
section
/-! DEFINITION. The operand forms of the instructions (spec/30_encoding.md R50): registers, immediates,
the zero-extended address, the address register with an offset, the key slot, the sampled inputs. All
are read from the state before the instruction writes anything (spec/10_state.md R16). -/

namespace Sys2Proof.Machine

/-- The flag register `V[15]` (R15). -/
abbrev flagReg : Reg := 15

/-- `V[x]` (R9). -/
def State.reg (s : State) (x : Reg) : Byte := s.v[x]

/-- `zext_16` (R8). -/
def zext16 {n : Nat} (b : BitVec n) : Word := b.setWidth 16

/-- The target of `JP V0, nnn`: a 16-bit sum, not reduced to 12 bits (R61). -/
def jumpV0Target (nnn : Addr12) (s : State) : Word := zext16 nnn + zext16 (s.reg 0)

/-- The highest address of a block of `count` bytes at `I`, on unbounded integers (R86). -/
def State.blockTop (s : State) (count : Nat) : Nat := s.i.toNat + count - 1

/-- The address of the glyph whose index is `b`, not masked to a nibble (R89). -/
def glyphAddress (b : Byte) : Word := 5 * zext16 b

/-- `keys[k]` of this step's sample (R111); slots above 15 do not exist. -/
def State.keyPressed (s : State) (k : Nat) : Bool := s.input.keys.getLsbD k

/-- The lowest-numbered slot that reads 0 in this step's sample (R104). -/
def State.firstUnpressed (s : State) : Option Nat :=
  (List.range 16).find? fun k => !s.keyPressed k

/-- `DT_live(now)` of spec/10_state.md R26; the subtraction of `Nat` is the `-.` of the rule. -/
def delayLive (value : Byte) (start now : Nat) : Byte :=
  BitVec.ofNat 8 (value.toNat - min value.toNat ((now - start) / dtTickMs))

/-- The three digits of R90, hundreds first. -/
def bcdDigits (b : Byte) : List Byte :=
  [BitVec.ofNat 8 (b.toNat / 100), BitVec.ofNat 8 (b.toNat / 10 % 10), BitVec.ofNat 8 (b.toNat % 10)]

end Sys2Proof.Machine
end

