-- ==== Sys2Proof/Machine/Ops.lean ====
section
/-! DEFINITION. The named operations over the state that every meaning is written with: reads and writes
of memory (spec/20_memory.md), the updates of the state, the fault entry (spec/60_exceptions.md R123),
the unrecognised word (spec/30_encoding.md R56), sampling the inputs and fetching (spec/50_interfaces.md
R108). -/

namespace Sys2Proof.Machine

/-! ## Memory -/

/-- What an address nothing has written reads as: the reset contents of spec/10_state.md R17 (log 6). -/
def resetByte (font : List Byte) (a : Nat) : Byte :=
  if a < Config.fontBytes then font.getD a 0 else 0

/-- The byte listed for an address, if any. -/
def Memory.lookup : Memory → Nat → Option Byte
  | [], _ => none
  | (k, b) :: rest, a => if k = a then some b else Memory.lookup rest a

/-- One byte of memory. -/
def Memory.read (font : List Byte) (m : Memory) (a : Nat) : Byte :=
  (Memory.lookup m a).getD (resetByte font a)

/-- Put a byte into the list: in address order, and not at all where it is the reset contents. -/
def Memory.store (font : List Byte) : Memory → Nat → Byte → Memory
  | [], a, b => if b = resetByte font a then [] else [(a, b)]
  | (k, c) :: rest, a, b =>
    if a < k then
      if b = resetByte font a then (k, c) :: rest else (a, b) :: (k, c) :: rest
    else if a = k then
      if b = resetByte font a then rest else (a, b) :: rest
    else (k, c) :: Memory.store font rest a b

/-- Write one byte. Memory has 4096 cells (R17), so a write elsewhere has no cell to go to; no meaning
makes one, each checks its block first (R36). -/
def Memory.write (font : List Byte) (m : Memory) (a : Nat) (b : Byte) : Memory :=
  if a < Config.memSize then Memory.store font m a b else m

/-- Write bytes at ascending addresses (R34). -/
def Memory.writeBytes (font : List Byte) : Memory → Nat → List Byte → Memory
  | m, _, [] => m
  | m, a, b :: bs => Memory.writeBytes font (Memory.write font m a b) (a + 1) bs

/-- Read `count` bytes at ascending addresses (R34). -/
def Memory.readBytes (font : List Byte) (m : Memory) : Nat → Nat → List Byte
  | _, 0 => []
  | a, count + 1 => Memory.read font m a :: Memory.readBytes font m (a + 1) count

/-- The canonical form: addresses strictly rising, all inside the memory, no cell equal to the reset
contents. -/
abbrev Memory.wf (font : List Byte) (m : Memory) : Prop :=
  m.Pairwise (fun p q => p.1 < q.1) ∧
    ∀ c ∈ m, c.1 < Config.memSize ∧ c.2 ≠ resetByte font c.1

/-- `MemRead(a, 1)` (R9). -/
def State.readByte (s : State) (a : Nat) : Byte := Memory.read s.cfg.fontTable s.mem a

/-- The `count` bytes from address `a` on. -/
def State.readBlock (s : State) (a count : Nat) : List Byte :=
  Memory.readBytes s.cfg.fontTable s.mem a count

/-- Memory with `bytes` stored from address `a` on. -/
def State.memWith (s : State) (a : Nat) (bytes : List Byte) : Memory :=
  Memory.writeBytes s.cfg.fontTable s.mem a bytes

/-! ## Updates of the state -/

/-- `pc <- p`. -/
def State.setPc (s : State) (p : Word) : State := { s with pc := p }

/-- Replace the register file. -/
def State.setV (s : State) (v : Vector Byte 16) : State := { s with v := v }

/-- `I <- a`. -/
def State.setI (s : State) (a : Word) : State := { s with i := a }

/-- Replace the call stack and its pointer. -/
def State.setStack (s : State) (stack : Vector Word 16) (sp : Fin 17) : State :=
  { s with stack := stack, sp := sp }

/-- Replace the memory. -/
def State.setMem (s : State) (m : Memory) : State := { s with mem := m }

/-- Write the framebuffer: `dirty` is set and `fb_written` is output in the same step (R97). -/
def State.paint (s : State) (fb : Framebuffer) : State :=
  { s with fb := fb, dirty := true, out := { s.out with fbWritten := true } }

/-- `dt_value <- value; dt_start <- start`. -/
def State.setDelay (s : State) (value : Byte) (start : Nat) : State :=
  { s with dtValue := value, dtStart := start }

/-- `ST <- b`. -/
def State.setSound (s : State) (b : Byte) : State := { s with st := b }

/-- `V[x] <- b` (R9). -/
def State.setReg (s : State) (x : Reg) (b : Byte) : State := s.setV (s.v.set x b)

/-- Write a result and the flag: the flag write comes last, so with `x = F` the flag value is what
`V[15]` holds (R16). -/
def State.setRegFlag (s : State) (x : Reg) (result : Byte) (flag : Bool) : State :=
  (s.setReg x result).setReg flagReg (flagByte flag)

/-- "next" of R9: `pc <- pc + 2`. -/
def State.advance (s : State) : State := s.setPc (s.pc + 2)

/-- The common rule of the skips (R65): `pc + 4` when the condition is true, else `pc + 2`. -/
def State.skipIf (s : State) (c : Bool) : State := s.setPc (s.pc + if c then 4 else 2)

/-- Load registers `k`, `k + 1`, … with the bytes of a list, ascending (R92). -/
def fillRegs : Vector Byte 16 → Nat → List Byte → Vector Byte 16
  | v, _, [] => v
  | v, k, b :: bs => fillRegs (v.setIfInBounds k b) (k + 1) bs

/-! ## Fault entry (R123)

There is no return from a fault but `Reset` (R125): `State.hostReset` in Transactions.lean. -/

/-- Record a fault: cause, `pc` of the faulting instruction, info; `fault_raised` is output; nothing
else changes. -/
def State.recordFault (s : State) (c : FaultCause) (info : Word) : State :=
  { s with
    fault := { cause := c, pc := s.pc, info := info }
    out := { s.out with faultRaised := true } }

/-- `raise c(info)`: the step ends in the state with the fault recorded. -/
def raiseFault (c : FaultCause) (info : Word) (s : State) : Result := .next (s.recordFault c info)

/-- `fault.cause != 0` (R118). -/
def State.faulted (s : State) : Bool := decide (s.fault.cause ≠ .noFault)

/-- Run `body` when the block of `count` bytes at `I` lies inside memory, else raise `MEM_OUT_OF_RANGE`
with the highest address, mod 65536 (R36); an empty block touches nothing and cannot fault. -/
def checkBlock (count : Nat) (s : State) (body : Result) : Result :=
  if count = 0 ∨ s.blockTop count < Config.memSize then body
  else raiseFault .memOutOfRange (BitVec.ofNat 16 (s.blockTop count)) s

/-- Run `body` when `V[x]` names a key slot, else raise `KEY_INDEX_OUT_OF_RANGE` (R70). -/
def checkKeyIndex (x : Reg) (s : State) (body : Result) : Result :=
  if (s.reg x).toNat < Config.numKeys then body
  else raiseFault .keyIndexOutOfRange (zext16 (s.reg x)) s

/-! ## The step around an instruction (R108) -/

/-- Sample the step's inputs, once, at its start: the next of the host's, else a free value (log 1); the
outputs of the previous step go inactive (R117: "in every other step unrec_valid = 0"). -/
def State.beginStep (s : State) : State :=
  match s.pending with
  | inp :: rest => { s with input := inp, pending := rest, out := .quiet }
  | [] => { s with input := Config.freeInput s.samples, samples := s.samples + 1, out := .quiet }

/-- Whether two bytes can be fetched at `pc` (R37). -/
def State.canFetch (s : State) : Bool := decide (s.pc.toNat ≤ 4094)

/-- The instruction word at `pc`, high byte first (R33). -/
def State.fetchWord (s : State) : Word :=
  wordOfBytes (s.readByte s.pc.toNat) (s.readByte (s.pc.toNat + 1))

/-- Whether an unrecognised word is reported: always, but for words 0nnn when `SYS_0NNN_RECOGNISED`
makes them a recognised no-op (R58). -/
def reportsUnrecognised (c : Config) (op : Word) : Bool :=
  !(c.sys0nnnRecognised && decide (fieldFamily op = 0))

/-- A word that matches no row: report it, `pc <- pc + 2`, nothing else (R56, R117). -/
def State.skipUnrecognised (s : State) (op : Word) : State :=
  State.advance
    { s with
      out := { s.out with
        unrec := if reportsUnrecognised s.cfg op then some (s.pc, op) else none } }

/-- Store a word where the next instruction is fetched (R33). -/
def State.placeWord (s : State) (op : Word) : State :=
  s.setMem (s.memWith s.pc.toNat [highByte op, lowByte op])

end Sys2Proof.Machine
end

