-- ==== Sys2Proof/Machine/AddressMemory.lean ====
section
/-! DEFINITION. The address register and the loads and stores through it (spec/43_memory_address.md). `I` is
changed by the first three only (R86). -/

namespace Sys2Proof.Machine

/-- `LD I, nnn` (R87). -/
def execLdI (nnn : Addr12) (s : State) : Result := .next (s.setI (zext16 nnn)).advance

/-- `ADD I, Vx` (R88): mod 65536, no flag. -/
def execAddI (x : Reg) (s : State) : Result := .next (s.setI (s.i + zext16 (s.reg x))).advance

/-- `LD F, Vx` (R89). -/
def execLdF (x : Reg) (s : State) : Result := .next (s.setI (glyphAddress (s.reg x))).advance

/-- `LD B, Vx` (R90): three digits at `I`, `I + 1`, `I + 2`. -/
def execLdB (x : Reg) (s : State) : Result :=
  checkBlock 3 s (.next (s.setMem (s.memWith s.i.toNat (bcdDigits (s.reg x)))).advance)

/-- `LD [I], Vx` (R91): registers `V[0]` to `V[x]` from `I` on. -/
def execStoreRegs (x : Reg) (s : State) : Result :=
  checkBlock (x.val + 1) s
    (.next (s.setMem (s.memWith s.i.toNat (s.v.toList.take (x.val + 1)))).advance)

/-- `LD Vx, [I]` (R92): registers `V[0]` to `V[x]` from the bytes at `I` on. -/
def execLoadRegs (x : Reg) (s : State) : Result :=
  checkBlock (x.val + 1) s
    (.next (s.setV (fillRegs s.v 0 (s.readBlock s.i.toNat (x.val + 1)))).advance)

end Sys2Proof.Machine
end

