-- ==== Sys2Proof/Machine/Arithmetic.lean ====
section
/-! DEFINITION. Register and immediate arithmetic (spec/42_arithmetic.md). Operands are read before
anything is written; the flag write comes last (R72; spec/10_state.md R16). None of these faults. -/

namespace Sys2Proof.Machine

/-- `LD Vx, kk` (R73). -/
def execLdImm (x : Reg) (kk : Byte) (s : State) : Result := .next (s.setReg x kk).advance

/-- `LD Vx, Vy` (R74). -/
def execLdReg (x y : Reg) (s : State) : Result := .next (s.setReg x (s.reg y)).advance

/-- `ADD Vx, kk` (R75): wraps, no flag. -/
def execAddImm (x : Reg) (kk : Byte) (s : State) : Result := .next (s.setReg x (s.reg x + kk)).advance

/-- `OR Vx, Vy` (R76): no flag. -/
def execOrReg (x y : Reg) (s : State) : Result := .next (s.setReg x (s.reg x ||| s.reg y)).advance

/-- `AND Vx, Vy` (R77): no flag. -/
def execAndReg (x y : Reg) (s : State) : Result := .next (s.setReg x (s.reg x &&& s.reg y)).advance

/-- `XOR Vx, Vy` (R78): no flag. -/
def execXorReg (x y : Reg) (s : State) : Result := .next (s.setReg x (s.reg x ^^^ s.reg y)).advance

/-- `ADD Vx, Vy` (R79): flag = carry out. -/
def execAddReg (x y : Reg) (s : State) : Result :=
  .next (s.setRegFlag x (s.reg x + s.reg y) (carryOut (s.reg x) (s.reg y))).advance

/-- `SUB Vx, Vy` (R80): minuend `V[x]`, flag = no borrow. -/
def execSubReg (x y : Reg) (s : State) : Result :=
  .next (s.setRegFlag x (s.reg x - s.reg y) (notBorrow (s.reg x) (s.reg y))).advance

/-- `SUBN Vx, Vy` (R81): minuend `V[y]`, destination still `V[x]`. -/
def execSubnReg (x y : Reg) (s : State) : Result :=
  .next (s.setRegFlag x (s.reg y - s.reg x) (notBorrow (s.reg y) (s.reg x))).advance

/-- `SHR Vx` (R82): by one; the `y` field is ignored. -/
def execShr (x : Reg) (s : State) : Result :=
  .next (s.setRegFlag x (s.reg x >>> 1) (shiftedOutRight (s.reg x))).advance

/-- `SHL Vx` (R83): by one; the `y` field is ignored. -/
def execShl (x : Reg) (s : State) : Result :=
  .next (s.setRegFlag x (s.reg x <<< 1) (shiftedOutLeft (s.reg x))).advance

/-- `RND Vx, kk` (R84): the step's random byte under the mask. -/
def execRnd (x : Reg) (kk : Byte) (s : State) : Result := .next (s.setReg x (s.input.rnd &&& kk)).advance

end Sys2Proof.Machine
end

