-- ==== Sys2Proof/Machine/ControlFlow.lean ====
section
/-! DEFINITION. Control flow: `JP nnn`, `JP V0, nnn`, `CALL nnn`, `RET` (spec/40_control_flow.md). -/

namespace Sys2Proof.Machine

/-- `JP nnn` (R60). -/
def execJp (nnn : Addr12) (s : State) : Result := .next (s.setPc (zext16 nnn))

/-- `JP V0, nnn` (R61). -/
def execJpV0 (nnn : Addr12) (s : State) : Result := .next (s.setPc (jumpV0Target nnn s))

/-- `CALL nnn` (R62): push `pc + 2` and jump; with 16 entries in use raise `STACK_OVERFLOW(nnn)`. -/
def execCall (nnn : Addr12) (s : State) : Result :=
  if h : s.sp.val < 16 then
    .next ((s.setStack (s.stack.set s.sp.val (s.pc + 2)) ⟨s.sp.val + 1, by omega⟩).setPc (zext16 nnn))
  else raiseFault .stackOverflow (zext16 nnn) s

/-- `RET` (R63): pop and jump to the popped entry; with no entry in use raise `STACK_UNDERFLOW(0)`. The
popped entry keeps its value (R23). -/
def execRet (s : State) : Result :=
  if h : 0 < s.sp.val then
    .next ((s.setStack s.stack ⟨s.sp.val - 1, by omega⟩).setPc (s.stack[s.sp.val - 1]'(by omega)))
  else raiseFault .stackUnderflow 0 s

end Sys2Proof.Machine
end

