-- ==== Sys2Proof/Machine/Display.lean ====
section
/-! DEFINITION. The framebuffer and its two writers, `DRW` and `CLS` (spec/44_display.md). -/

namespace Sys2Proof.Machine

/-! ## Pixels -/

/-- `fb[r][c]` (spec/10_state.md R24); a pixel outside the grid does not exist and reads as clear, which
no meaning relies on: every coordinate is reduced first (log 9). -/
def pixelAt (fb : Framebuffer) (r c : Nat) : Bool := (fb.getD r []).getD c false

/-- `fb[r][c] <- b`. -/
def setPixel (fb : Framebuffer) (r c : Nat) (b : Bool) : Framebuffer :=
  fb.modify r fun row => row.set c b

/-- Every pixel 0, the grid's shape kept (R95). -/
def clearedFb (fb : Framebuffer) : Framebuffer := fb.map fun row => row.map fun _ => false

/-- The framebuffer has the size of the parameters: `FB_HEIGHT` rows of `FB_WIDTH` pixels (R24). -/
abbrev fbShape (c : Config) (fb : Framebuffer) : Prop :=
  fb.length = c.fbHeight ∧ ∀ row ∈ fb, row.length = c.fbWidth

/-! ## Sprites (R93) -/

/-- One pixel a sprite lands on, with the sprite's bit for it. -/
structure Touch where
  row : Nat
  col : Nat
  bit : Bool
deriving DecidableEq, Repr

/-- Row `r` of a sprite: bit 7 of the byte is column 0, and every pixel wraps on its own (R93). -/
def rowTouches (cfg : Config) (vx vy r : Nat) (b : Byte) : List Touch :=
  (List.range 8).map fun c =>
    { row := (vy + r) % cfg.fbHeight, col := (vx + c) % cfg.fbWidth, bit := b.getLsbD (7 - c) }

/-- The pixels of the rows from `r` on, in the order of R94: rows top to bottom, columns left to
right. -/
def spriteTouches (cfg : Config) (vx vy : Nat) : Nat → List Byte → List Touch
  | _, [] => []
  | r, b :: bs => rowTouches cfg vx vy r b ++ spriteTouches cfg vx vy (r + 1) bs

/-- XOR one sprite pixel onto the framebuffer; the collision is remembered when a set pixel is toggled
off (R94). -/
def xorTouch (acc : Framebuffer × Bool) (t : Touch) : Framebuffer × Bool :=
  let old := pixelAt acc.1 t.row t.col
  (setPixel acc.1 t.row t.col (old ^^ t.bit), acc.2 || (old && t.bit))

/-- Draw a list of pixels one after the other: the framebuffer after, and the collision. -/
def drawTouches (fb : Framebuffer) (ts : List Touch) : Framebuffer × Bool :=
  ts.foldl xorTouch (fb, false)

/-- The pixels `DRW Vx, Vy, n` touches: the coordinates are the old register values, also with `x = F` or
`y = F` (R94; spec/10_state.md R16). -/
def State.spriteAt (s : State) (x y : Reg) (n : Nat) : List Touch :=
  spriteTouches s.cfg (s.reg x).toNat (s.reg y).toNat 0 (s.readBlock s.i.toNat n)

/-- `DRW Vx, Vy, n` (R94): flag = collision; `dirty` is set also when no pixel changes. -/
def execDrw (x y : Reg) (n : Nat) (s : State) : Result :=
  checkBlock n s
    (.next
      ((s.paint (drawTouches s.fb (s.spriteAt x y n)).1).setReg flagReg
        (flagByte (drawTouches s.fb (s.spriteAt x y n)).2)).advance)

/-- `CLS` (R95): no flag. -/
def execCls (s : State) : Result := .next (s.paint (clearedFb s.fb)).advance

end Sys2Proof.Machine
end

