-- ==== Sys2Proof/Machine/KeyWait.lean ====
section
/-! DEFINITION. The blocking key wait (spec/46_keywait.md). It ends on the first UNPRESSED slot, as the
source says (R104 and the warning before it). -/

namespace Sys2Proof.Machine

/-- What the key wait does with the slot its scan found: write the slot number and go on, or, with every
slot pressed, leave the state as it is, so that the same word is fetched again (R104, R105). -/
def keyWaitResult (x : Reg) (s : State) : Option Nat → State
  | some k => (s.setReg x (BitVec.ofNat 8 k)).advance
  | none => s

/-- `LD Vx, K` (R104). -/
def execLdVxK (x : Reg) (s : State) : Result := .next (keyWaitResult x s s.firstUnpressed)

end Sys2Proof.Machine
end

