-- ==== Sys2Proof/Machine/Skips.lean ====
section
/-! DEFINITION. The six conditional skips (spec/41_skips.md); the advance is `State.skipIf` (R65). -/

namespace Sys2Proof.Machine

/-- `SE Vx, kk` (R66). -/
def execSeImm (x : Reg) (kk : Byte) (s : State) : Result := .next (s.skipIf (s.reg x == kk))

/-- `SNE Vx, kk` (R67). -/
def execSneImm (x : Reg) (kk : Byte) (s : State) : Result := .next (s.skipIf (s.reg x != kk))

/-- `SE Vx, Vy` (R68); the fourth nibble is ignored. -/
def execSeReg (x y : Reg) (s : State) : Result := .next (s.skipIf (s.reg x == s.reg y))

/-- `SNE Vx, Vy` (R69); the fourth nibble is ignored. -/
def execSneReg (x y : Reg) (s : State) : Result := .next (s.skipIf (s.reg x != s.reg y))

/-- `SKP Vx` (R70). -/
def execSkp (x : Reg) (s : State) : Result :=
  checkKeyIndex x s (.next (s.skipIf (s.keyPressed (s.reg x).toNat)))

/-- `SKNP Vx` (R71). -/
def execSknp (x : Reg) (s : State) : Result :=
  checkKeyIndex x s (.next (s.skipIf (!s.keyPressed (s.reg x).toNat)))

end Sys2Proof.Machine
end

