-- ==== Sys2Proof/Machine/Timers.lean ====
section
/-! DEFINITION. The timers (spec/45_timers.md): the delay timer is computed from the sampled clock when it
is read; the sound timer only holds what is written. -/

namespace Sys2Proof.Machine

/-- `LD Vx, DT` (R98): the read changes neither timer register. -/
def execLdVxDT (x : Reg) (s : State) : Result :=
  .next (s.setReg x (delayLive s.dtValue s.dtStart s.input.now)).advance

/-- `LD DT, Vx` (R99). -/
def execLdDTVx (x : Reg) (s : State) : Result := .next (s.setDelay (s.reg x) s.input.now).advance

/-- `LD ST, Vx` (R100). -/
def execLdSTVx (x : Reg) (s : State) : Result := .next (s.setSound (s.reg x)).advance

end Sys2Proof.Machine
end

