-- ==== Sys2Proof/Machine/Step.lean ====
section
/-! DEFINITION. One step: the transaction `Step` of spec/50_interfaces.md R108. -/

namespace Sys2Proof.Machine

/-- The step after its inputs are sampled: nothing on a faulted core; then the fetch check, the fetch, the
decoding, and the instruction (R108). -/
def stepSampled (s : State) : Host.Outcome State Fault Refusal :=
  if s.faulted then .next s
  else if s.canFetch then
    match decodeWord s.fetchWord with
    | some i => exec i s
    | none => .next (s.skipUnrecognised s.fetchWord)
  else raiseFault .fetchOutOfRange s.pc s

/-- One step (R108): sample the inputs, then run. -/
def step (s : State) : Host.Outcome State Fault Refusal := stepSampled s.beginStep

/-- The state with a table word of `nbits` bits stored at `pc`, where `step` fetches. -/
def State.withFetchWord (s : State) (nbits w : Nat) : State :=
  s.placeWord (BitVec.ofNat 16 (w % 2 ^ nbits))

end Sys2Proof.Machine
end

