-- ==== Sys2Proof/Machine/Transactions.lean ====
section
/-! DEFINITION. The host's transactions (spec/50_interfaces.md R107 to R118). Each is one function of the
state; transactions do not overlap, because a function has no middle (R107; log 16). -/

namespace Sys2Proof.Machine

/-- `Reset(now)` (R109): every piece of architectural state at its reset value. The parameters, and the
model's own record of the inputs still to come, are not state of the core and stay (log 12). -/
def State.hostReset (s : State) (now : Nat) : State :=
  { State.resetWith s.cfg now with pending := s.pending, samples := s.samples }

/-- The result of `LoadROM` (R110). -/
inductive LoadResult where
  | ok
  /-- More than `ROM_MAX` bytes: a load error, not a fault of the core (R130). -/
  | romTooLarge
deriving DecidableEq, Repr

/-- `LoadROM(bytes)` (R110): copy the bytes to the entry point, or, when they do not fit, change
nothing. -/
def State.loadROM (s : State) (bytes : List Byte) : LoadResult × State :=
  if bytes.length ≤ romMax then (.ok, s.setMem (s.memWith romBase bytes)) else (.romTooLarge, s)

/-- The state in which the next step samples the given inputs (R108). -/
def State.supply (s : State) (inp : StepInput) : State := { s with pending := inp :: s.pending }

/-- `ReadFramebuffer` (R114). -/
def State.readFramebuffer (s : State) : Framebuffer := s.fb

/-- `ReadDirty` (R115). -/
def State.readDirty (s : State) : Bool := s.dirty

/-- `AckDirty` (R115): the only thing that clears `dirty`. -/
def State.ackDirty (s : State) : State := { s with dirty := false }

/-- `ReadSoundTimer` (R116). -/
def State.readSoundTimer (s : State) : Byte := s.st

/-- `ReadFault` (R118). -/
def State.readFault (s : State) : FaultRecord := s.fault

/-- What the host can ask of the core (R107). -/
inductive Transaction where
  | reset (now : Nat)
  | loadROM (bytes : List Byte)
  | step (inp : StepInput)
  | readFramebuffer
  | readDirty
  | ackDirty
  | readSoundTimer
  | readFault
deriving DecidableEq, Repr

/-- What the host gets back. -/
inductive Response where
  | done
  | loaded (r : LoadResult)
  | stepped (out : StepOutput)
  | framebuffer (fb : Framebuffer)
  | dirty (b : Bool)
  | soundTimer (b : Byte)
  | fault (f : FaultRecord)
deriving DecidableEq, Repr

/-- What a step answers the host: its outputs (R108). -/
def stepResponse : Result → Host.Outcome (State × Response) Fault Refusal
  | .next s => .next (s, .stepped s.out)
  | .fault r => .fault r
  | .refused r => .refused r

/-- One transaction, performed whole. -/
def perform (t : Transaction) (s : State) : Host.Outcome (State × Response) Fault Refusal :=
  match t with
  | .reset now => .next (s.hostReset now, .done)
  | .loadROM bytes => .next ((s.loadROM bytes).2, .loaded (s.loadROM bytes).1)
  | .step inp => stepResponse (Sys2Proof.Machine.step (s.supply inp))
  | .readFramebuffer => .next (s, .framebuffer s.readFramebuffer)
  | .readDirty => .next (s, .dirty s.readDirty)
  | .ackDirty => .next (s.ackDirty, .done)
  | .readSoundTimer => .next (s, .soundTimer s.readSoundTimer)
  | .readFault => .next (s, .fault s.readFault)

end Sys2Proof.Machine
end

