-- ==== Sys2Proof/Safety.lean ====
section
/-! DEFINITION. What a safe run is, and the terms claims about the whole machine use: the fault-free
conditions of spec/60_exceptions.md R127, the state invariant, the architectural state of
spec/10_state.md R13, and the host's duty on the clock (spec/50_interfaces.md R112). -/

namespace Sys2Proof.Machine

/-- No fault is recorded (R127). A faulted state has "gone wrong"; it is never the end of a run
(R124). -/
abbrev State.safe (s : State) : Prop := s.fault.cause = .noFault

/-- The conditions of R127 under which an instruction raises no fault. -/
def faultFree (i : Instr) (s : State) : Prop :=
  match i with
  | .call _ => s.sp.val < 16
  | .ret => 0 < s.sp.val
  | .ldB _ => s.i.toNat + 2 ≤ 4095
  | .storeRegs x => s.i.toNat + x.val ≤ 4095
  | .loadRegs x => s.i.toNat + x.val ≤ 4095
  | .drw _ _ n => n = 0 ∨ s.i.toNat + n - 1 ≤ 4095
  | .skp x => s.v[x].toNat ≤ 15
  | .sknp x => s.v[x].toNat ≤ 15
  | .cls | .jp _ | .seImm _ _ | .sneImm _ _ | .seReg _ _ _ | .ldImm _ _ | .addImm _ _ | .ldReg _ _
  | .orReg _ _ | .andReg _ _ | .xorReg _ _ | .addReg _ _ | .subReg _ _ | .shr _ _ | .subnReg _ _
  | .shl _ _ | .sneReg _ _ _ | .ldI _ | .jpV0 _ | .rnd _ _ | .ldVxDT _ | .ldVxK _ | .ldDTVx _
  | .ldSTVx _ | .addI _ | .ldF _ => True

/-- The invariant of the machine's data: memory in canonical form; the framebuffer of the size the
parameters give (R24); `pc` never past the greatest target of `JP V0` and every stack entry at most the
return address of the last instruction slot, so that no addition to `pc` wraps (R21, R61, R62). -/
structure State.Inv (s : State) : Prop where
  memory : Memory.wf s.cfg.fontTable s.mem
  framebuffer : fbShape s.cfg s.fb
  counter : s.pc.toNat ≤ 0x10FE
  returns : ∀ k : Fin 16, s.stack[k].toNat ≤ 0x1000

/-- The two states agree on the architectural state, the tuple of R13 (memory as what its addresses read
as). -/
structure State.SameArch (s t : State) : Prop where
  v : t.v = s.v
  pc : t.pc = s.pc
  i : t.i = s.i
  stack : t.stack = s.stack
  sp : t.sp = s.sp
  mem : ∀ a, t.readByte a = s.readByte a
  fb : t.fb = s.fb
  dirty : t.dirty = s.dirty
  dtValue : t.dtValue = s.dtValue
  dtStart : t.dtStart = s.dtStart
  st : t.st = s.st
  fault : t.fault = s.fault

/-- Row `r`, column `c` of the grid lies under a 1 bit of the sprite `DRW Vx, Vy, n` draws: bit `7 - j` of
the byte at `I + k` lands on row `(V[y] + k) mod FB_HEIGHT`, column `(V[x] + j) mod FB_WIDTH` (R93). -/
def State.SpriteLights (s : State) (x y : Reg) (n r c : Nat) : Prop :=
  ∃ k < n, ∃ j < 8,
    (s.v[y].toNat + k) % s.cfg.fbHeight = r ∧ (s.v[x].toNat + j) % s.cfg.fbWidth = c ∧
      (s.readByte (s.i.toNat + k)).getLsbD (7 - j) = true

/-- Register `k` is a destination of the instruction, named by it or written as its flag (R14, R15; R91 and
R92 for the blocks). -/
def writesReg (i : Instr) (k : Reg) : Prop :=
  match i with
  | .ldImm x _ | .addImm x _ | .ldReg x _ | .orReg x _ | .andReg x _ | .xorReg x _ | .rnd x _
  | .ldVxDT x | .ldVxK x => k = x
  | .addReg x _ | .subReg x _ | .shr x _ | .subnReg x _ | .shl x _ => k = x ∨ k = 15
  | .drw _ _ _ => k = 15
  | .loadRegs x => k ≤ x
  | .cls | .ret | .jp _ | .call _ | .seImm _ _ | .sneImm _ _ | .seReg _ _ _ | .sneReg _ _ _ | .ldI _
  | .jpV0 _ | .skp _ | .sknp _ | .ldDTVx _ | .ldSTVx _ | .addI _ | .ldF _ | .ldB _
  | .storeRegs _ => False

/-- The host's duty on the clock (R112): the inputs still to come do not go back in time, nor before the
instant the delay timer was set. No step assumes it. -/
abbrev State.clockDuty (s : State) : Prop :=
  (∀ inp ∈ s.pending, s.dtStart ≤ inp.now) ∧ s.pending.Pairwise (fun a b => a.now ≤ b.now)

end Sys2Proof.Machine
end

