-- ==== Sys2Proof/Certificates/Slice0/Obligations.lean ====
section
/-! DEFINITION. The statements of this row. A statement over all states speaks of every value of the
inputs (`State.input`), of the open parameters (`State.cfg`) and of the model's counter. "The model's choice"
names the log entry in notes/assumptions; "the spec's own" names its decision D<n>, its general-knowledge
entry GK<n>, or its derived mark. -/

open Sys2Proof Sys2Proof.Machine

/-! ## Encoding -/

/-- 30_encoding.md R46 to R55: decoding the bytes of a well-formed instruction gives that instruction and
leaves the bytes after it. -/
def Obligations.DecodeOfEncodeIsTheInstruction : Prop :=
  ∀ (i : Instr) (rest : List Byte), i.wellFormed = true → decode (encodeBytes i ++ rest) = .ok (i, rest)

/-- 30_encoding.md R51: the other direction; no bit of a recognised word is dropped, the ignored nibbles
included (the model's choice, log 17). -/
def Obligations.EncodeOfDecodeIsTheWord : Prop :=
  ∀ (op : Word) (i : Instr), decodeWord op = some i → encode i = op ∧ i.wellFormed = true

/-- The opcode map of 30_encoding.md: "A word matches a row when `(op AND mask) = match`; at most one row
matches any word." The patterns are the spec's own (D36, GK2) for 30 rows. -/
def Obligations.DecoderFollowsTheOpcodeTable : Prop :=
  ∀ (op : Word) (j : Instr),
    op &&& (opcodeRow j).mask = (opcodeRow j).pattern ↔
      ∃ i, decodeWord op = some i ∧ opcodeRow i = opcodeRow j

/-- 30_encoding.md R57 (derived there): which words are unrecognised. -/
def Obligations.UnrecognisedWordsAreExactlyThese : Prop :=
  ∀ op : Word,
    decodeWord op = none ↔
      (op.toNat / 4096 = 0 ∧ op.toNat ≠ 0x00E0 ∧ op.toNat ≠ 0x00EE) ∨
      (op.toNat / 4096 = 8 ∧ op.toNat % 16 ∈ [0x8, 0x9, 0xA, 0xB, 0xC, 0xD, 0xF]) ∨
      (op.toNat / 4096 = 0xE ∧ op.toNat % 256 ∉ [0x9E, 0xA1]) ∨
      (op.toNat / 4096 = 0xF ∧
        op.toNat % 256 ∉ [0x07, 0x0A, 0x15, 0x18, 0x1E, 0x29, 0x33, 0x55, 0x65])

/-- 30_encoding.md R48, R52 to R55: the source's five literals, one word of each other family, and two
words that are not recognised (the patterns beyond the literals are the spec's own, GK2). -/
def Obligations.LiteralWordsDecode : Prop :=
  decodeTableWord 16 0x00E0 = some .cls ∧ decodeTableWord 16 0x1200 = some (.jp 0x200) ∧
  decodeTableWord 16 0x6005 = some (.ldImm 0 5) ∧ decodeTableWord 16 0x6103 = some (.ldImm 1 3) ∧
  decodeTableWord 16 0x8014 = some (.addReg 0 1) ∧ decodeTableWord 16 0x2301 = some (.call 0x301) ∧
  decodeTableWord 16 0x332A = some (.seImm 3 0x2A) ∧ decodeTableWord 16 0x4F81 = some (.sneImm 15 0x81) ∧
  decodeTableWord 16 0x5127 = some (.seReg 1 2 7) ∧ decodeTableWord 16 0x70FE = some (.addImm 0 0xFE) ∧
  decodeTableWord 16 0x948F = some (.sneReg 4 8 15) ∧ decodeTableWord 16 0xA2F0 = some (.ldI 0x2F0) ∧
  decodeTableWord 16 0xBFFE = some (.jpV0 0xFFE) ∧ decodeTableWord 16 0xCA0F = some (.rnd 10 0x0F) ∧
  decodeTableWord 16 0xD123 = some (.drw 1 2 3) ∧ decodeTableWord 16 0xE39E = some (.skp 3) ∧
  decodeTableWord 16 0xECA1 = some (.sknp 12) ∧ decodeTableWord 16 0xF315 = some (.ldDTVx 3) ∧
  decodeTableWord 16 0xF50A = some (.ldVxK 5) ∧ decodeTableWord 16 0x0123 = none ∧
  decodeTableWord 16 0xE19D = none

/-! ## The step -/

/-- 20_memory.md R33: the fetched word is big-endian. -/
def Obligations.FetchIsBigEndian : Prop :=
  ∀ s : State,
    s.fetchWord.extractLsb' 8 8 = s.readByte s.pc.toNat ∧
      s.fetchWord.extractLsb' 0 8 = s.readByte (s.pc.toNat + 1)

/-- 50_interfaces.md R107, R108: the inputs of a step are sampled once, at its start, on a faulted core
too, and held: the state a step leads to has the inputs of that one sampling, one entry of the host's list
or one free value used up. The sampling touches no other state and makes the previous outputs inactive. The
host's transaction `Step(keys, now, rnd)` is the step that samples the values it is given, and answers the
outputs. That the inputs come from the host's list, else from a free value, is the model's choice (log 1). -/
def Obligations.StepSamplesItsInputsOnce : Prop :=
  (∀ s : State,
    (∀ inp rest, s.pending = inp :: rest →
      s.beginStep = { s with input := inp, pending := rest, out := .quiet }) ∧
    (s.pending = [] →
      s.beginStep =
        { s with input := Config.freeInput s.samples, samples := s.samples + 1, out := .quiet })) ∧
  (∀ s t : State, step s = .next t →
    t.input = s.beginStep.input ∧ t.pending = s.beginStep.pending ∧ t.samples = s.beginStep.samples) ∧
  (∀ (inp : StepInput) (s : State), ∃ t,
    step { s with pending := inp :: s.pending } = .next t ∧
    perform (.step inp) s = .next (t, .stepped t.out) ∧
    t.input = inp ∧ t.pending = s.pending ∧ t.samples = s.samples)

/-- 50_interfaces.md R108 (D1): when the core is not faulted and the two bytes at `pc` decode to an
instruction, the step is that instruction's rule on the sampled state. -/
def Obligations.StepRunsTheDecodedInstruction : Prop :=
  ∀ (s : State) (i : Instr),
    s.fault.cause = .noFault → s.pc.toNat ≤ 4094 →
    decode [s.readByte s.pc.toNat, s.readByte (s.pc.toNat + 1)] = .ok (i, []) →
    step s = exec i s.beginStep

/-- 30_encoding.md R56: an unrecognised word is reported and acts as a no-op that advances `pc` by 2; no
other state changes. Words 0nnn of a machine with `SYS_0NNN_RECOGNISED` are R58's case. -/
def Obligations.UnrecognisedWordIsReportedAndSkipped : Prop :=
  ∀ s : State,
    s.fault.cause = .noFault → s.pc.toNat ≤ 4094 → decodeWord s.fetchWord = none →
    ¬ (s.cfg.sys0nnnRecognised = true ∧ s.fetchWord.toNat / 4096 = 0) →
    step s = .next
      { s.beginStep with
        pc := s.pc + 2
        out := { unrec := some (s.pc, s.fetchWord), fbWritten := false, faultRaised := false } }

/-- 30_encoding.md R58 (D21): with the parameter true, words 0nnn are a no-op without report. -/
def Obligations.RecognisedSysWordIsASilentNoop : Prop :=
  ∀ s : State,
    s.fault.cause = .noFault → s.pc.toNat ≤ 4094 → decodeWord s.fetchWord = none →
    s.cfg.sys0nnnRecognised = true → s.fetchWord.toNat / 4096 = 0 →
    step s = .next { s.beginStep with pc := s.pc + 2 }

/-- 20_memory.md R37 (D7): a step with `pc` above 4094 records `FETCH_OUT_OF_RANGE(pc)` and changes
nothing else. -/
def Obligations.FetchOutOfRangeIsRecorded : Prop :=
  ∀ s : State,
    s.fault.cause = .noFault → 4094 < s.pc.toNat →
    step s = .next
      { s.beginStep with
        fault := { cause := .fetchOutOfRange, pc := s.pc, info := s.pc }
        out := { unrec := none, fbWritten := false, faultRaised := true } }

/-- 60_exceptions.md R124 (D5): a faulted core executes nothing; no report and no pulse. -/
def Obligations.FaultedCoreExecutesNothing : Prop :=
  ∀ s : State, s.fault.cause ≠ .noFault →
    ∃ t, step s = .next t ∧ s.SameArch t ∧ t.cfg = s.cfg ∧ t.out = .quiet

/-- 90_conflicts.md C3: the step function is total; it always answers a next state (R108, R149). -/
def Obligations.EveryStepAnswersANextState : Prop :=
  ∀ s : State, ∃ t, step s = .next t

/-- 60_exceptions.md R123 (D4, D5): a step that records a fault changes nothing but the fault record and
its output, and the record names the `pc` of the instruction. -/
def Obligations.FaultsArePrecise : Prop :=
  ∀ s t : State, step s = .next t → s.fault.cause = .noFault → t.fault.cause ≠ .noFault →
    t.fault.pc = s.pc ∧
    t = { s.beginStep with
          fault := t.fault
          out := { unrec := none, fbWritten := false, faultRaised := true } }

/-- 60_exceptions.md R122, R127 (derived there): an instruction on an unfaulted core records a fault
exactly when its fault-free condition fails. -/
def Obligations.FaultFreeConditionsAreExact : Prop :=
  ∀ (i : Instr) (s t : State), s.fault.cause = .noFault → exec i s = .next t →
    (t.fault.cause = .noFault ↔ faultFree i s)

/-! ## Invariant -/

/-- 10_state.md R21, R23, R24 (derived there): every step keeps the canonical memory, the grid's shape and
the bounds on `pc` and on the stack entries that make every addition to `pc` exact. -/
def Obligations.StepKeepsTheInvariant : Prop :=
  ∀ s t : State, s.Inv → step s = .next t → t.Inv

/-- The state after reset meets the invariant, whatever the parameters and the time. -/
def Obligations.ResetMeetsTheInvariant : Prop :=
  State.reset.Inv ∧ ∀ (c : Config) (now : Nat), (State.resetWith c now).Inv

/-- 70_reset_and_hazards.md R149 (derived there): only a faulted core, a jump to its own address and a
stalled key wait leave the architectural state as it was. (R149's other clause, that every other step
changes `pc`, fails for a `CALL` of its own address: log 18.) -/
def Obligations.OnlySelfJumpOrStallKeepsTheState : Prop :=
  ∀ s t : State, step s = .next t → s.fault.cause = .noFault → s.SameArch t →
    (∃ nnn, decodeWord s.fetchWord = some (.jp nnn) ∧ nnn.setWidth 16 = s.pc) ∨
    (∃ nnn, decodeWord s.fetchWord = some (.jpV0 nnn) ∧
      nnn.setWidth 16 + s.v[0].setWidth 16 = s.pc) ∨
    (∃ x, decodeWord s.fetchWord = some (.ldVxK x) ∧ ∀ k < 16, t.input.keys.getLsbD k = true)

/-! ## Frames over all instructions -/

/-- 10_state.md R14, R15: a register is changed only by an instruction that names it as destination or
writes it as its flag. -/
def Obligations.OnlyDestinationRegistersChange : Prop :=
  ∀ (i : Instr) (s t : State) (k : Reg), exec i s = .next t → ¬ writesReg i k → t.v[k] = s.v[k]

/-- 10_state.md R15: the six instructions that write the flag register leave exactly 0 or 1 there when
they do not fault. -/
def Obligations.FlagIsZeroOrOne : Prop :=
  ∀ (s t : State) (x y : Reg) (n : Nat) (i : Instr),
    i ∈ [.addReg x y, .subReg x y, .subnReg x y, .shr x y, .shl x y, .drw x y n] →
    s.fault.cause = .noFault → exec i s = .next t → t.fault.cause = .noFault →
    t.v[15] = 0 ∨ t.v[15] = 1

/-- 20_memory.md R31: no instruction but `LD B, Vx` and `LD [I], Vx` stores to memory. -/
def Obligations.OnlyStoresChangeMemory : Prop :=
  ∀ (i : Instr) (s t : State), exec i s = .next t →
    (∀ x, i ≠ .ldB x) → (∀ x, i ≠ .storeRegs x) → ∀ a, t.readByte a = s.readByte a

/-- 10_state.md R22, 43_memory_address.md R86 (D13): `I` changes only by `LD I`, `ADD I`, `LD F`. -/
def Obligations.OnlyAddressInstructionsChangeI : Prop :=
  ∀ (i : Instr) (s t : State), exec i s = .next t →
    (∀ nnn, i ≠ .ldI nnn) → (∀ x, i ≠ .addI x) → (∀ x, i ≠ .ldF x) → t.i = s.i

/-- 10_state.md R23: the call stack is reached by `CALL` and `RET` only: no other instruction changes the
pointer, none but `CALL` an entry, and none but `RET` depends on the entries (with other entries it answers
the same next state but for them). -/
def Obligations.OnlyCallAndReturnReachTheStack : Prop :=
  ∀ (i : Instr) (s t : State), exec i s = .next t →
    ((∀ nnn, i ≠ .call nnn) → t.stack = s.stack) ∧
    ((∀ nnn, i ≠ .call nnn) → i ≠ .ret → t.sp = s.sp) ∧
    (i ≠ .ret → ∀ entries : Vector Word 16,
      ∃ entries', exec i { s with stack := entries } = .next { t with stack := entries' })

/-- 10_state.md R26: neither delay register changes with time; only `LD DT, Vx` writes them. -/
def Obligations.OnlyLdDtChangesTheDelayTimer : Prop :=
  ∀ s t : State, step s = .next t → (∀ x, decodeWord s.fetchWord ≠ some (.ldDTVx x)) →
    t.dtValue = s.dtValue ∧ t.dtStart = s.dtStart

/-- 10_state.md R27: the sound timer is 8 bits, 0 after reset, written only by `LD ST, Vx`, read by no
instruction (no instruction's other effects depend on it), never changed by anything else, and read by
the host. -/
def Obligations.SoundTimerIsSetOnly : Prop :=
  (∀ (c : Config) (now : Nat), (State.resetWith c now).st = 0) ∧
  (∀ s t : State, step s = .next t →
    t.st = s.st ∨ ∃ x, decodeWord s.fetchWord = some (.ldSTVx x) ∧ t.st = s.v[x]) ∧
  (∀ (i : Instr) (s t : State) (b : Byte), exec i s = .next t →
    ∃ c, exec i { s with st := b } = .next { t with st := c }) ∧
  (∀ s : State, perform .readSoundTimer s = .next (s, .soundTimer s.st))

/-- 44_display.md R97: the framebuffer's only writers among the steps are `CLS` and `DRW`; each sets
`dirty` in the same step; the core never clears `dirty`; reset sets it; `fb_written` is 1 exactly when the
step executed one of them without faulting; reading the framebuffer has no side effect. -/
def Obligations.FramebufferWritersSetDirty : Prop :=
  (∀ s t : State, step s = .next t →
    (t.out.fbWritten = true ↔
      s.fault.cause = .noFault ∧ s.pc.toNat ≤ 4094 ∧ t.fault.cause = .noFault ∧
        (decodeWord s.fetchWord = some .cls ∨
          ∃ x y n, decodeWord s.fetchWord = some (.drw x y n))) ∧
    (t.out.fbWritten = true → t.dirty = true) ∧
    (t.out.fbWritten = false → t.fb = s.fb ∧ t.dirty = s.dirty)) ∧
  (∀ (s : State) (now : Nat), (s.hostReset now).dirty = true ∧ State.reset.dirty = true) ∧
  (∀ s : State, perform .readFramebuffer s = .next (s, .framebuffer s.fb))

/-- 00_scope.md R7 and 50_interfaces.md R108, through fields that are the model's own (log 1, log 5): no
instruction changes the parameters, the sampled inputs, the inputs still to come, or the counter of free
inputs. -/
def Obligations.InstructionsKeepParametersAndInputs : Prop :=
  ∀ (i : Instr) (s t : State), exec i s = .next t →
    t.cfg = s.cfg ∧ t.input = s.input ∧ t.pending = s.pending ∧ t.samples = s.samples

/-! ## Control flow (40_control_flow.md) -/

/-- R60 (D30), R61 (GK8, D24): the two jumps set `pc` and change nothing else. -/
def Obligations.JumpsSetOnlyPc : Prop :=
  ∀ (nnn : Addr12) (s : State),
    exec (.jp nnn) s = .next { s with pc := nnn.setWidth 16 } ∧
    exec (.jpV0 nnn) s = .next { s with pc := BitVec.ofNat 16 (nnn.toNat + s.v[0].toNat) }

/-- R62 (D3): with fewer than 16 entries in use `CALL` pushes `pc + 2` and jumps. -/
def Obligations.CallPushesTheReturnAddress : Prop :=
  ∀ (nnn : Addr12) (s : State) (h : s.sp.val < 16),
    exec (.call nnn) s = .next
      { s with
        stack := s.stack.set s.sp.val (s.pc + 2)
        sp := ⟨s.sp.val + 1, Nat.succ_lt_succ h⟩
        pc := nnn.setWidth 16 }

/-- R63 (D3): with an entry in use `RET` pops it and jumps to it; the entry keeps its value. -/
def Obligations.ReturnPopsTheStack : Prop :=
  ∀ (s : State) (k : Fin 16), s.sp.val = k.val + 1 →
    exec .ret s = .next { s with sp := k.castSucc, pc := s.stack[k] }

/-- R62, R63, 60_exceptions.md R121 (D4, D5): a `CALL` with 16 entries and a `RET` with none record their
faults and change nothing else. -/
def Obligations.StackFaultsAreRecorded : Prop :=
  ∀ (nnn : Addr12) (s : State),
    (s.sp.val = 16 → exec (.call nnn) s = .next
      { s with
        fault := { cause := .stackOverflow, pc := s.pc, info := nnn.setWidth 16 }
        out := { s.out with faultRaised := true } }) ∧
    (s.sp.val = 0 → exec .ret s = .next
      { s with
        fault := { cause := .stackUnderflow, pc := s.pc, info := 0 }
        out := { s.out with faultRaised := true } })

/-- R64 (derived there): the `RET` that pops the entry a `CALL` pushed comes back to the address after the
`CALL`, with the stack pointer as it was, and neither changes a register, `I` or memory. -/
def Obligations.CallThenReturnComesBack : Prop :=
  ∀ (nnn : Addr12) (s t u : State) (k : Fin 16), s.sp = k.castSucc → exec (.call nnn) s = .next t →
    u.sp = t.sp → u.stack[k] = t.stack[k] →
    t.v = s.v ∧ t.i = s.i ∧ t.mem = s.mem ∧
    ∃ w, exec .ret u = .next w ∧ w.pc = s.pc + 2 ∧ w.sp = s.sp ∧ w.v = u.v ∧ w.i = u.i ∧ w.mem = u.mem

/-! ## Skips (41_skips.md) -/

/-- R65 to R69 (encodings GK2): the four register skips. -/
def Obligations.RegisterSkipsAdvanceByFourOrTwo : Prop :=
  ∀ (x y : Reg) (kk : Byte) (z : Nibble) (s : State),
    exec (.seImm x kk) s = .next { s with pc := s.pc + if s.v[x] = kk then 4 else 2 } ∧
    exec (.sneImm x kk) s = .next { s with pc := s.pc + if s.v[x] = kk then 2 else 4 } ∧
    exec (.seReg x y z) s = .next { s with pc := s.pc + if s.v[x] = s.v[y] then 4 else 2 } ∧
    exec (.sneReg x y z) s = .next { s with pc := s.pc + if s.v[x] = s.v[y] then 2 else 4 }

/-- R65, R70, R71 (GK9): the two key skips, on the slot whose number is `V[x]`, of this step's sample. -/
def Obligations.KeySkipsTestTheSampledSlot : Prop :=
  ∀ (x : Reg) (s : State), s.v[x].toNat ≤ 15 →
    exec (.skp x) s = .next
      { s with pc := s.pc + if s.input.keys.getLsbD s.v[x].toNat = true then 4 else 2 } ∧
    exec (.sknp x) s = .next
      { s with pc := s.pc + if s.input.keys.getLsbD s.v[x].toNat = true then 2 else 4 }

/-- R70, R71 (D8): a key index above 15 is `KEY_INDEX_OUT_OF_RANGE`, whatever is pressed. -/
def Obligations.KeyIndexFaultIsRecorded : Prop :=
  ∀ (x : Reg) (s : State) (i : Instr), i ∈ [.skp x, .sknp x] → 15 < s.v[x].toNat →
    exec i s = .next
      { s with
        fault := { cause := .keyIndexOutOfRange, pc := s.pc, info := s.v[x].setWidth 16 }
        out := { s.out with faultRaised := true } }

/-! ## Arithmetic (42_arithmetic.md) -/

/-- R73: the words 6xkk are `LD Vx, kk`, which writes `kk` to `V[x]`, the flag register included, and
advances `pc` by 2. -/
def Obligations.LoadImmediateWritesTheRegister : Prop :=
  ∀ (x : Reg) (kk : Byte),
    decodeWord (BitVec.ofNat 16 (0x6000 + x.val * 256 + kk.toNat)) = some (.ldImm x kk) ∧
    ∀ s : State, exec (.ldImm x kk) s = .next { s with v := s.v.set x kk, pc := s.pc + 2 }

/-- R74 to R78, R84 (encodings GK2; the input `rnd` D18): the register operations without a flag. -/
def Obligations.FlaglessRegisterOperations : Prop :=
  ∀ (x y : Reg) (kk : Byte) (s : State),
    exec (.ldReg x y) s = .next { s with v := s.v.set x s.v[y], pc := s.pc + 2 } ∧
    exec (.addImm x kk) s = .next
      { s with v := s.v.set x (BitVec.ofNat 8 ((s.v[x].toNat + kk.toNat) % 256)), pc := s.pc + 2 } ∧
    exec (.orReg x y) s = .next { s with v := s.v.set x (s.v[x] ||| s.v[y]), pc := s.pc + 2 } ∧
    exec (.andReg x y) s = .next { s with v := s.v.set x (s.v[x] &&& s.v[y]), pc := s.pc + 2 } ∧
    exec (.xorReg x y) s = .next { s with v := s.v.set x (s.v[x] ^^^ s.v[y]), pc := s.pc + 2 } ∧
    exec (.rnd x kk) s = .next { s with v := s.v.set x (s.input.rnd &&& kk), pc := s.pc + 2 }

/-- R79: the words 8xy4 are `ADD Vx, Vy`: the sum modulo 256 goes to `V[x]` unless `x = F`, then `V[15]`
is 1 when the sum exceeds 255, else 0. -/
def Obligations.AddRegisterWritesSumThenCarry : Prop :=
  ∀ x y : Reg,
    decodeWord (BitVec.ofNat 16 (0x8004 + x.val * 256 + y.val * 16)) = some (.addReg x y) ∧
    ∀ s : State,
      exec (.addReg x y) s = .next
        { s with
          v := (if x = 15 then s.v
                else s.v.set x (BitVec.ofNat 8 ((s.v[x].toNat + s.v[y].toNat) % 256))).set 15
                  (if s.v[x].toNat + s.v[y].toNat > 255 then 1 else 0)
          pc := s.pc + 2 }

/-- R80, R81 (encodings GK2): the two subtractions; the flag is 1 when no borrow occurred. -/
def Obligations.SubtractionsWriteDifferenceThenNotBorrow : Prop :=
  ∀ (x y : Reg) (s : State),
    exec (.subReg x y) s = .next
      { s with
        v := (if x = 15 then s.v
              else s.v.set x (BitVec.ofNat 8 ((s.v[x].toNat + 256 - s.v[y].toNat) % 256))).set 15
                (if s.v[x].toNat ≥ s.v[y].toNat then 1 else 0)
        pc := s.pc + 2 } ∧
    exec (.subnReg x y) s = .next
      { s with
        v := (if x = 15 then s.v
              else s.v.set x (BitVec.ofNat 8 ((s.v[y].toNat + 256 - s.v[x].toNat) % 256))).set 15
                (if s.v[y].toNat ≥ s.v[x].toNat then 1 else 0)
        pc := s.pc + 2 }

/-- R82, R83 (encodings GK2): the two shifts by one; the flag is the bit shifted out; the `y` field has no
effect. -/
def Obligations.ShiftsWriteResultThenTheBitShiftedOut : Prop :=
  ∀ (x y : Reg) (s : State),
    exec (.shr x y) s = .next
      { s with
        v := (if x = 15 then s.v else s.v.set x (BitVec.ofNat 8 (s.v[x].toNat / 2))).set 15
                (BitVec.ofNat 8 (s.v[x].toNat % 2))
        pc := s.pc + 2 } ∧
    exec (.shl x y) s = .next
      { s with
        v := (if x = 15 then s.v else s.v.set x (BitVec.ofNat 8 (s.v[x].toNat * 2 % 256))).set 15
                (BitVec.ofNat 8 (s.v[x].toNat / 128))
        pc := s.pc + 2 }

/-- R85 (derived there): for `x ≠ F` the flag and the result together hold the exact result. -/
def Obligations.FlagAndResultHoldTheExactValue : Prop :=
  ∀ (x y : Reg) (s t : State), x ≠ 15 →
    (exec (.addReg x y) s = .next t →
      256 * t.v[15].toNat + t.v[x].toNat = s.v[x].toNat + s.v[y].toNat) ∧
    (exec (.subReg x y) s = .next t →
      (t.v[x].toNat : Int) = s.v[x].toNat - s.v[y].toNat + 256 * (1 - t.v[15].toNat)) ∧
    (exec (.subnReg x y) s = .next t →
      (t.v[x].toNat : Int) = s.v[y].toNat - s.v[x].toNat + 256 * (1 - t.v[15].toNat)) ∧
    (exec (.shr x y) s = .next t → 2 * t.v[x].toNat + t.v[15].toNat = s.v[x].toNat) ∧
    (exec (.shl x y) s = .next t → 256 * t.v[15].toNat + t.v[x].toNat = 2 * s.v[x].toNat)

/-! ## Address register and memory (43_memory_address.md) -/

/-- R87, R88 (D11), R89 (D12): the three instructions that write `I`; no flag. -/
def Obligations.AddressRegisterOperations : Prop :=
  ∀ (x : Reg) (nnn : Addr12) (s : State),
    exec (.ldI nnn) s = .next { s with i := nnn.setWidth 16, pc := s.pc + 2 } ∧
    exec (.addI x) s = .next
      { s with i := BitVec.ofNat 16 ((s.i.toNat + s.v[x].toNat) % 65536), pc := s.pc + 2 } ∧
    exec (.ldF x) s = .next { s with i := BitVec.ofNat 16 (5 * s.v[x].toNat), pc := s.pc + 2 }

/-- R90 (digit order GK7): hundreds, tens and ones at `I`, `I + 1`, `I + 2`; every other byte and the rest
of the state as before. -/
def Obligations.BcdStoresThreeDigits : Prop :=
  ∀ (x : Reg) (s : State), Memory.wf s.cfg.fontTable s.mem → s.i.toNat + 2 ≤ 4095 →
    ∃ t, exec (.ldB x) s = .next t ∧ t = { s with mem := t.mem, pc := s.pc + 2 } ∧
      (t.readByte s.i.toNat).toNat = s.v[x].toNat / 100 ∧
      (t.readByte (s.i.toNat + 1)).toNat = s.v[x].toNat / 10 % 10 ∧
      (t.readByte (s.i.toNat + 2)).toNat = s.v[x].toNat % 10 ∧
      ∀ a, a < s.i.toNat ∨ s.i.toNat + 2 < a → t.readByte a = s.readByte a

/-- R91 (D13 for `I`): registers `V[0]` to `V[x]` at `I` to `I + x`; every other byte and the rest of the
state as before. -/
def Obligations.BulkStoreWritesRegisters : Prop :=
  ∀ (x : Reg) (s : State), Memory.wf s.cfg.fontTable s.mem → s.i.toNat + x.val ≤ 4095 →
    ∃ t, exec (.storeRegs x) s = .next t ∧ t = { s with mem := t.mem, pc := s.pc + 2 } ∧
      (∀ k : Reg, k ≤ x → t.readByte (s.i.toNat + k.val) = s.v[k]) ∧
      ∀ a, a < s.i.toNat ∨ s.i.toNat + x.val < a → t.readByte a = s.readByte a

/-- R92 (D13 for `I`): registers `V[0]` to `V[x]` from the bytes at `I` to `I + x`; the registers above `x`
and the rest of the state as before. -/
def Obligations.BulkLoadReadsRegisters : Prop :=
  ∀ (x : Reg) (s : State), s.i.toNat + x.val ≤ 4095 →
    ∃ t, exec (.loadRegs x) s = .next t ∧ t = { s with v := t.v, pc := s.pc + 2 } ∧
      (∀ k : Reg, k ≤ x → t.v[k] = s.readByte (s.i.toNat + k.val)) ∧
      ∀ k : Reg, x < k → t.v[k] = s.v[k]

/-- R92: "`LD [I], Vx` followed by `LD Vx, [I]` with the same `x` and `I` restores the same register
values", whatever happened to the registers in between. -/
def Obligations.BulkLoadRestoresWhatBulkStoreWrote : Prop :=
  ∀ (x : Reg) (s t u : State), Memory.wf s.cfg.fontTable s.mem → s.i.toNat + x.val ≤ 4095 →
    exec (.storeRegs x) s = .next t → u.i = s.i → (∀ a, u.readByte a = t.readByte a) →
    ∃ w, exec (.loadRegs x) u = .next w ∧ ∀ k : Reg, k ≤ x → w.v[k] = s.v[k]

/-- 20_memory.md R36, 60_exceptions.md R121 (D6): a block that leaves memory is `MEM_OUT_OF_RANGE` with the
highest address modulo 65536; nothing is read or written. -/
def Obligations.BlockFaultsAreRecorded : Prop :=
  ∀ (x y : Reg) (n top : Nat) (s : State) (i : Instr),
    (i = .ldB x ∧ top = s.i.toNat + 2) ∨ (i = .storeRegs x ∧ top = s.i.toNat + x.val) ∨
      (i = .loadRegs x ∧ top = s.i.toNat + x.val) ∨
      (i = .drw x y n ∧ 1 ≤ n ∧ top = s.i.toNat + n - 1) →
    4095 < top →
    exec i s = .next
      { s with
        fault := { cause := .memOutOfRange, pc := s.pc, info := BitVec.ofNat 16 top }
        out := { s.out with faultRaised := true } }

/-! ## Display (44_display.md) -/

/-- R95: the word 00E0 is `CLS`: every pixel of the grid is 0, the grid keeps its shape, `dirty` is set;
registers, `I`, memory, stack and flag are unchanged. -/
def Obligations.ClearScreenZeroesTheGrid : Prop :=
  decodeWord 0x00E0#16 = some .cls ∧
  ∀ s : State, ∃ t, exec .cls s = .next t ∧
    t = { s with fb := t.fb, dirty := true, out := { s.out with fbWritten := true }, pc := s.pc + 2 } ∧
    (∀ r c, pixelAt t.fb r c = false) ∧
    t.fb.map List.length = s.fb.map List.length

/-- R93, R94 (bit order GK6): with a grid of at least 8 × 15 pixels and the sprite inside memory, `DRW`
toggles exactly the pixels under its 1 bits, every pixel wrapping on its own, and the flag tells whether one
of them was set; nothing else changes but `dirty`, the output and `pc`. -/
def Obligations.DrawTogglesTheSpritesPixels : Prop :=
  ∀ (x y : Reg) (n : Nat) (s : State), s.cfg.wf → fbShape s.cfg s.fb → n ≤ 15 →
    n = 0 ∨ s.i.toNat + n - 1 ≤ 4095 →
    ∃ (t : State) (flag : Byte), exec (.drw x y n) s = .next t ∧
      t = { s with
            fb := t.fb, v := s.v.set 15 flag, dirty := true
            out := { s.out with fbWritten := true }, pc := s.pc + 2 } ∧
      fbShape s.cfg t.fb ∧
      (∀ r < s.cfg.fbHeight, ∀ c < s.cfg.fbWidth,
        (pixelAt t.fb r c = true ↔ (pixelAt s.fb r c = true ↔ ¬ s.SpriteLights x y n r c))) ∧
      (flag = 0 ∨ flag = 1) ∧
      (flag = 1 ↔ ∃ r < s.cfg.fbHeight, ∃ c < s.cfg.fbWidth,
        pixelAt s.fb r c = true ∧ s.SpriteLights x y n r c)

/-- R94: on a grid of any size, `DRW` completes when its sprite lies inside memory, drawing the sprite's
pixels one after the other; with no row it draws nothing, clears the flag and sets `dirty` (D31). -/
def Obligations.DrawCompletesInsideMemory : Prop :=
  ∀ (x y : Reg) (n : Nat) (s : State),
    (n = 0 ∨ s.i.toNat + n - 1 ≤ 4095 →
      exec (.drw x y n) s = .next
        { s with
          fb := (drawTouches s.fb (s.spriteAt x y n)).1
          v := s.v.set 15 (if (drawTouches s.fb (s.spriteAt x y n)).2 then 1 else 0)
          dirty := true, out := { s.out with fbWritten := true }, pc := s.pc + 2 }) ∧
    exec (.drw x y 0) s = .next
      { s with
        v := s.v.set 15 0, dirty := true, out := { s.out with fbWritten := true }, pc := s.pc + 2 }

/-- R96 (a) (derived there): the same sprite drawn twice at the same place restores the framebuffer, and
the second draw's flag is 1 exactly when some sprite bit is 1 over a pixel that was 0 before the first. -/
def Obligations.DrawingTwiceRestoresTheFramebuffer : Prop :=
  ∀ (x y : Reg) (n : Nat) (s t u w : State), fbShape s.cfg s.fb →
    n = 0 ∨ s.i.toNat + n - 1 ≤ 4095 → exec (.drw x y n) s = .next t →
    u.cfg = s.cfg → u.fb = t.fb → u.v[x] = s.v[x] → u.v[y] = s.v[y] → u.i = s.i →
    (∀ a, u.readByte a = s.readByte a) → exec (.drw x y n) u = .next w →
    w.fb = s.fb ∧
    (s.cfg.wf → n ≤ 15 →
      (w.v[15] = 1 ↔ ∃ r < s.cfg.fbHeight, ∃ c < s.cfg.fbWidth,
        pixelAt s.fb r c = false ∧ s.SpriteLights x y n r c))

/-! ## Timers (45_timers.md) and key wait (46_keywait.md) -/

/-- R98, R99, R100 (encodings GK2; the input `now` D17): the three timer instructions. -/
def Obligations.TimerInstructions : Prop :=
  ∀ (x : Reg) (s : State),
    exec (.ldVxDT x) s = .next
      { s with
        v := s.v.set x
          (BitVec.ofNat 8
            (s.dtValue.toNat - min s.dtValue.toNat ((s.input.now - s.dtStart) / 15)))
        pc := s.pc + 2 } ∧
    exec (.ldDTVx x) s = .next
      { s with dtValue := s.v[x], dtStart := s.input.now, pc := s.pc + 2 } ∧
    exec (.ldSTVx x) s = .next { s with st := s.v[x], pc := s.pc + 2 }

/-- R101 (derived there): a timer set to `V` at `t0` reads `V - k` while `k` whole ticks of 15 ms have
elapsed, and 0 from `t0 + 15 V` on, however many steps lie in between. -/
def Obligations.DelayTimerDecaysByWallClock : Prop :=
  ∀ (x y : Reg) (s t u w : State) (k : Nat), exec (.ldDTVx x) s = .next t →
    u.dtValue = t.dtValue → u.dtStart = t.dtStart → exec (.ldVxDT y) u = .next w →
    (k < s.v[x].toNat → s.input.now + 15 * k ≤ u.input.now →
      u.input.now < s.input.now + 15 * (k + 1) → w.v[y].toNat = s.v[x].toNat - k) ∧
    (s.input.now + 15 * s.v[x].toNat ≤ u.input.now → w.v[y].toNat = 0)

/-- R104 (polarity and destination D25, GK10): the key wait completes on the first unpressed slot and
writes its number to `V[x]`. -/
def Obligations.KeyWaitTakesTheFirstUnpressedSlot : Prop :=
  ∀ (x : Reg) (s : State) (k : Nat), k < 16 → s.input.keys.getLsbD k = false →
    (∀ j < k, s.input.keys.getLsbD j = true) →
    exec (.ldVxK x) s = .next { s with v := s.v.set x (BitVec.ofNat 8 k), pc := s.pc + 2 }

/-- R105: when the scan finds no slot the step ends with the architectural state exactly as it was, no
output is active, and the same word is fetched again. -/
def Obligations.StalledKeyWaitKeepsTheState : Prop :=
  ∀ (x : Reg) (s : State),
    s.fault.cause = .noFault → s.pc.toNat ≤ 4094 → decodeWord s.fetchWord = some (.ldVxK x) →
    (∀ k < 16, s.beginStep.input.keys.getLsbD k = true) →
    ∃ t, step s = .next t ∧ s.SameArch t ∧ t.fetchWord = s.fetchWord ∧ t.out = .quiet

/-! ## Reset and the host's transactions (70_reset_and_hazards.md, 50_interfaces.md) -/

/-- R138, R139 (derived there; D32): the architectural state after a reset, both of the transaction
`Reset(now)` from any state and of the model's `State.reset`; `dt_start` is in ResetTakesTheTimeItIsGiven.
R139 speaks of the addresses 0 to 4095 and of a font table of 80 bytes. That a read above 4095, where memory
has no cell, gives 0, and that the bytes missing from a shorter font table are 0, is the model's choice
(log 6). -/
def Obligations.ResetGivesTheListedValues : Prop :=
  ∀ t : State, t = State.reset ∨ (∃ (s : State) (now : Nat), t = s.hostReset now) →
    (∀ k : Reg, t.v[k] = 0) ∧ t.pc = 0x200#16 ∧ t.i = 0 ∧ (∀ k : Fin 16, t.stack[k] = 0) ∧ t.sp = 0 ∧
    (∀ a, a < 80 → t.readByte a = t.cfg.fontTable.getD a 0) ∧
    (∀ a, 80 ≤ a → t.readByte a = 0) ∧
    fbShape t.cfg t.fb ∧ (∀ r c, pixelAt t.fb r c = false) ∧ t.dirty = true ∧ t.dtValue = 0 ∧ t.st = 0 ∧
    t.fault = { cause := .noFault, pc := 0, info := 0 }

/-- R109: `Reset(now)` initialises `dt_start` with `now`. That it keeps the parameters is the model's choice
(log 12). -/
def Obligations.ResetTakesTheTimeItIsGiven : Prop :=
  ∀ (s : State) (now : Nat),
    perform (.reset now) s = .next (s.hostReset now, .done) ∧
    (s.hostReset now).cfg = s.cfg ∧ (s.hostReset now).dtStart = now

/-- R110 (D26 for when it may be called): an image that fits is copied to 0x200 on, every other byte and
the rest of the state as before. -/
def Obligations.LoadRomCopiesTheImage : Prop :=
  ∀ (s : State) (bytes : List Byte), Memory.wf s.cfg.fontTable s.mem → bytes.length ≤ 3584 →
    ∃ t, perform (.loadROM bytes) s = .next (t, .loaded .ok) ∧ t = { s with mem := t.mem } ∧
      (∀ k, k < bytes.length → t.readByte (0x200 + k) = bytes.getD k 0) ∧
      ∀ a, a < 0x200 ∨ 0x200 + bytes.length ≤ a → t.readByte a = s.readByte a

/-- 60_exceptions.md R130: a ROM that is too large is an error result; it never touches the core's state or
fault record, so the core is stepped afterwards as if the load had not been attempted. -/
def Obligations.OversizedRomChangesNothing : Prop :=
  ∀ (s : State) (bytes : List Byte), 3584 < bytes.length →
    perform (.loadROM bytes) s = .next (s, .loaded .romTooLarge)

/-- R115 (D19), R114, R116, R118: `AckDirty` clears `dirty` and nothing else; the four reads answer what they
read and have no side effect. -/
def Obligations.AcknowledgeClearsOnlyDirty : Prop :=
  ∀ s : State,
    perform .ackDirty s = .next ({ s with dirty := false }, .done) ∧
    perform .readDirty s = .next (s, .dirty s.dirty) ∧
    perform .readFramebuffer s = .next (s, .framebuffer s.fb) ∧
    perform .readSoundTimer s = .next (s, .soundTimer s.st) ∧
    perform .readFault s = .next (s, .fault s.fault)
end

