-- ==== Sys2Proof/Laws/Decode.lean ====
section
/-! SUPPORT. The fields of a word built by one of the formats, and the word rebuilt from its fields. -/

namespace Sys2Proof

/-! ## Fields of the formats -/

/-- `a ++ b` as a number (spec/00_scope.md R8). -/
theorem toNat_concat {m n : Nat} (a : BitVec m) (b : BitVec n) :
    (a ++ b).toNat = a.toNat * 2 ^ n + b.toNat := by
  rw [BitVec.toNat_append, ← Nat.shiftLeft_add_eq_or_of_lt b.isLt, Nat.shiftLeft_eq]

theorem toNat_formatA (n1 : Nibble) (nnn : Addr12) :
    (formatA n1 nnn).toNat = n1.toNat * 4096 + nnn.toNat := toNat_concat n1 nnn

theorem toNat_regBits (x : Reg) : (regBits x).toNat = x.val := rfl

theorem toNat_formatXK (n1 : Nibble) (x : Reg) (kk : Byte) :
    (formatXK n1 x kk).toNat = n1.toNat * 4096 + x.val * 256 + kk.toNat := by
  rw [formatXK, toNat_concat, toNat_concat, toNat_regBits]
  omega

theorem toNat_formatXYN (n1 : Nibble) (x y : Reg) (n : Nibble) :
    (formatXYN n1 x y n).toNat = n1.toNat * 4096 + x.val * 256 + y.val * 16 + n.toNat := by
  rw [formatXYN, toNat_concat, toNat_concat, toNat_concat, toNat_regBits, toNat_regBits]
  omega

/-- The fields of a word as numbers. -/
theorem toNat_fieldFamily (op : Word) : (fieldFamily op).toNat = op.toNat / 4096 := by
  have := op.isLt
  simp only [fieldFamily, BitVec.extractLsb'_toNat, Nat.shiftRight_eq_div_pow]
  omega

theorem val_fieldX (op : Word) : (fieldX op).val = op.toNat / 256 % 16 := by
  simp only [fieldX, BitVec.val_toFin, BitVec.extractLsb'_toNat, Nat.shiftRight_eq_div_pow]

theorem val_fieldY (op : Word) : (fieldY op).val = op.toNat / 16 % 16 := by
  simp only [fieldY, BitVec.val_toFin, BitVec.extractLsb'_toNat, Nat.shiftRight_eq_div_pow]

theorem toNat_fieldN (op : Word) : (fieldN op).toNat = op.toNat % 16 := by
  simp only [fieldN, BitVec.extractLsb'_toNat, Nat.shiftRight_zero]

theorem toNat_fieldKK (op : Word) : (fieldKK op).toNat = op.toNat % 256 := by
  simp only [fieldKK, BitVec.extractLsb'_toNat, Nat.shiftRight_zero]

theorem toNat_fieldNNN (op : Word) : (fieldNNN op).toNat = op.toNat % 4096 := by
  simp only [fieldNNN, BitVec.extractLsb'_toNat, Nat.shiftRight_zero]

section
variable (n1 n : Nibble) (nnn : Addr12) (x y : Reg) (kk : Byte)

@[simp] theorem fieldFamily_formatA : fieldFamily (formatA n1 nnn) = n1 :=
  BitVec.eq_of_toNat_eq (by have := nnn.isLt; rw [toNat_fieldFamily, toNat_formatA]; omega)

@[simp] theorem fieldNNN_formatA : fieldNNN (formatA n1 nnn) = nnn :=
  BitVec.eq_of_toNat_eq (by have := nnn.isLt; rw [toNat_fieldNNN, toNat_formatA]; omega)

@[simp] theorem fieldFamily_formatXK : fieldFamily (formatXK n1 x kk) = n1 :=
  BitVec.eq_of_toNat_eq (by
    have := kk.isLt; have := x.isLt; rw [toNat_fieldFamily, toNat_formatXK]; omega)

@[simp] theorem fieldX_formatXK : fieldX (formatXK n1 x kk) = x :=
  Fin.ext (by have := kk.isLt; have := x.isLt; rw [val_fieldX, toNat_formatXK]; omega)

@[simp] theorem fieldKK_formatXK : fieldKK (formatXK n1 x kk) = kk :=
  BitVec.eq_of_toNat_eq (by have := kk.isLt; rw [toNat_fieldKK, toNat_formatXK]; omega)

@[simp] theorem fieldFamily_formatXYN : fieldFamily (formatXYN n1 x y n) = n1 :=
  BitVec.eq_of_toNat_eq (by
    have := n.isLt; have := x.isLt; have := y.isLt; rw [toNat_fieldFamily, toNat_formatXYN]; omega)

@[simp] theorem fieldX_formatXYN : fieldX (formatXYN n1 x y n) = x :=
  Fin.ext (by
    have := n.isLt; have := x.isLt; have := y.isLt; rw [val_fieldX, toNat_formatXYN]; omega)

@[simp] theorem fieldY_formatXYN : fieldY (formatXYN n1 x y n) = y :=
  Fin.ext (by have := n.isLt; have := y.isLt; rw [val_fieldY, toNat_formatXYN]; omega)

@[simp] theorem fieldN_formatXYN : fieldN (formatXYN n1 x y n) = n :=
  BitVec.eq_of_toNat_eq (by have := n.isLt; rw [toNat_fieldN, toNat_formatXYN]; omega)

end

/-! ## A word from its fields -/

theorem formatA_fields (op : Word) : formatA (fieldFamily op) (fieldNNN op) = op :=
  BitVec.eq_of_toNat_eq (by rw [toNat_formatA, toNat_fieldFamily, toNat_fieldNNN]; omega)

theorem formatXK_fields (op : Word) : formatXK (fieldFamily op) (fieldX op) (fieldKK op) = op :=
  BitVec.eq_of_toNat_eq (by
    rw [toNat_formatXK, toNat_fieldFamily, val_fieldX, toNat_fieldKK]; omega)

theorem formatXYN_fields (op : Word) :
    formatXYN (fieldFamily op) (fieldX op) (fieldY op) (fieldN op) = op :=
  BitVec.eq_of_toNat_eq (by
    rw [toNat_formatXYN, toNat_fieldFamily, val_fieldX, val_fieldY, toNat_fieldN]; omega)

/-! ## Bytes -/

theorem toNat_wordOfBytes (hi lo : Byte) :
    (wordOfBytes hi lo).toNat = hi.toNat * 256 + lo.toNat := toNat_concat hi lo

theorem toNat_highByte (op : Word) : (highByte op).toNat = op.toNat / 256 := by
  have := op.isLt
  simp only [highByte, BitVec.extractLsb'_toNat, Nat.shiftRight_eq_div_pow]
  omega

theorem toNat_lowByte (op : Word) : (lowByte op).toNat = op.toNat % 256 := by
  simp only [lowByte, BitVec.extractLsb'_toNat, Nat.shiftRight_zero]

@[simp] theorem wordOfBytes_bytes (op : Word) : wordOfBytes (highByte op) (lowByte op) = op :=
  BitVec.eq_of_toNat_eq (by rw [toNat_wordOfBytes, toNat_highByte, toNat_lowByte]; omega)

@[simp] theorem highByte_wordOfBytes (hi lo : Byte) : highByte (wordOfBytes hi lo) = hi :=
  BitVec.eq_of_toNat_eq (by have := lo.isLt; rw [toNat_highByte, toNat_wordOfBytes]; omega)

@[simp] theorem lowByte_wordOfBytes (hi lo : Byte) : lowByte (wordOfBytes hi lo) = lo :=
  BitVec.eq_of_toNat_eq (by have := lo.isLt; rw [toNat_lowByte, toNat_wordOfBytes]; omega)

/-- Two bytes decode to an instruction when their word does. -/
theorem decode_two {hi lo : Byte} {rest : List Byte} {i : Instr} :
    decode (hi :: lo :: rest) = .ok (i, rest) ↔ decodeWord (wordOfBytes hi lo) = some i := by
  simp only [decode]
  split <;> simp_all

end Sys2Proof
end

