-- ==== Sys2Proof/Laws/Memory.lean ====
section
/-! SUPPORT. The laws of memory: a read after a write, blocks of bytes, and that every memory operation
keeps the canonical form `Memory.wf`. -/

namespace Sys2Proof.Machine

variable {font : List Byte} {m : Memory} {a a' : Nat} {b : Byte}

/-! ## One byte -/

/-- An address above every listed one is not listed. -/
theorem Memory.lookup_none_of_lt (h : ∀ c ∈ m, a < c.1) : Memory.lookup m a = none := by
  induction m with
  | nil => rfl
  | cons c rest ih =>
    have hc := h c (by simp)
    simp [Memory.lookup, show c.1 ≠ a by omega, ih fun d hd => h d (by simp [hd])]

theorem Memory.read_store_ne (h : a' ≠ a) :
    Memory.read font (Memory.store font m a b) a' = Memory.read font m a' := by
  induction m with
  | nil => by_cases hb : b = resetByte font a <;> simp [Memory.store, Memory.read, Memory.lookup, hb, h.symm]
  | cons c rest ih =>
    obtain ⟨k, d⟩ := c
    simp only [Memory.store]
    by_cases hk : k = a'
    · subst hk
      split
      · split <;> simp [Memory.read, Memory.lookup, h.symm]
      · simp [Memory.read, Memory.lookup, h.symm]
    · simp only [Memory.read] at ih
      split
      · split <;> simp [Memory.read, Memory.lookup, h.symm, hk]
      · split
        · next he => subst he; split <;> simp [Memory.read, Memory.lookup, hk]
        · simpa [Memory.read, Memory.lookup, hk] using ih

theorem Memory.read_store_same (h : m.Pairwise fun p q => p.1 < q.1) :
    Memory.read font (Memory.store font m a b) a = b := by
  induction m with
  | nil => by_cases hb : b = resetByte font a <;> simp [Memory.store, Memory.read, Memory.lookup, hb]
  | cons c rest ih =>
    obtain ⟨k, d⟩ := c
    obtain ⟨hlt, hrest⟩ := List.pairwise_cons.mp h
    have habove : a ≤ k → Memory.lookup rest a = none := fun hak =>
      Memory.lookup_none_of_lt fun e he => lt_of_le_of_lt hak (hlt e he)
    simp only [Memory.store]
    split
    · next hak =>
      by_cases hb : b = resetByte font a
      · simp [hb, Memory.read, Memory.lookup, habove (by omega), show k ≠ a by omega]
      · simp [hb, Memory.read, Memory.lookup]
    · split
      · next hak =>
        by_cases hb : b = resetByte font a
        · simp [hb, Memory.read, habove (by omega)]
        · simp [hb, Memory.read, Memory.lookup]
      · next h1 h2 =>
        have hk : ¬ k = a := fun hc => h2 hc.symm
        simpa [Memory.read, Memory.lookup, hk] using ih hrest

/-- Every cell of the list after a store is the stored one or was there before. -/
theorem Memory.mem_store {c : Host.Cell} (h : c ∈ Memory.store font m a b) :
    (c = (a, b) ∧ b ≠ resetByte font a) ∨ c ∈ m := by
  induction m with
  | nil => by_cases hb : b = resetByte font a <;> simp_all [Memory.store]
  | cons d rest ih =>
    obtain ⟨k, e⟩ := d
    simp only [Memory.store] at h
    split at h
    · split at h
      · exact .inr h
      · next hb =>
        rcases List.mem_cons.mp h with rfl | h
        · exact .inl ⟨rfl, hb⟩
        · exact .inr h
    · split at h
      · split at h
        · exact .inr (by simp [h])
        · next hb =>
          rcases List.mem_cons.mp h with rfl | h
          · exact .inl ⟨rfl, hb⟩
          · exact .inr (by simp [h])
      · rcases List.mem_cons.mp h with rfl | h
        · exact .inr (by simp)
        · rcases ih h with h | h
          · exact .inl h
          · exact .inr (by simp [h])

theorem Memory.store_pairwise (h : m.Pairwise fun p q => p.1 < q.1) :
    (Memory.store font m a b).Pairwise fun p q => p.1 < q.1 := by
  induction m with
  | nil => by_cases hb : b = resetByte font a <;> simp [Memory.store, hb]
  | cons d rest ih =>
    obtain ⟨k, e⟩ := d
    obtain ⟨hlt, hrest⟩ := List.pairwise_cons.mp h
    simp only [Memory.store]
    split
    · next hak =>
      split
      · exact h
      · refine List.pairwise_cons.mpr ⟨fun c hc => ?_, h⟩
        rcases List.mem_cons.mp hc with rfl | hc
        · exact hak
        · exact lt_trans hak (hlt c hc)
    · split
      · next hak =>
        split
        · exact hrest
        · exact List.pairwise_cons.mpr ⟨fun c hc => by simpa [hak] using hlt c hc, hrest⟩
      · refine List.pairwise_cons.mpr ⟨fun c hc => ?_, ih hrest⟩
        rcases Memory.mem_store hc with ⟨rfl, -⟩ | hc
        · simp only at *; omega
        · exact hlt c hc

/-- A write keeps the canonical form. -/
theorem Memory.write_wf (h : Memory.wf font m) : Memory.wf font (Memory.write font m a b) := by
  unfold Memory.write
  split
  · next ha =>
    refine ⟨Memory.store_pairwise h.1, fun c hc => ?_⟩
    rcases Memory.mem_store hc with ⟨rfl, hb⟩ | hc
    · exact ⟨ha, hb⟩
    · exact h.2 c hc
  · exact h

/-- A read after a write to the same address gives the value written. -/
theorem Memory.read_write_same (h : Memory.wf font m) (ha : a < Config.memSize) :
    Memory.read font (Memory.write font m a b) a = b := by
  rw [Memory.write, if_pos ha]
  exact Memory.read_store_same h.1

/-- A write leaves every other address alone. -/
theorem Memory.read_write_ne (h : a' ≠ a) :
    Memory.read font (Memory.write font m a b) a' = Memory.read font m a' := by
  unfold Memory.write
  split
  · exact Memory.read_store_ne h
  · rfl

/-! ## Blocks of bytes -/

/-- Writing a block keeps the canonical form. -/
theorem Memory.writeBytes_wf (bs : List Byte) (h : Memory.wf font m) :
    Memory.wf font (Memory.writeBytes font m a bs) := by
  induction bs generalizing m a with
  | nil => exact h
  | cons b bs ih => exact ih (Memory.write_wf h)

/-- After a block is written, its addresses read as its bytes and every other address as before. -/
theorem Memory.read_writeBytes (bs : List Byte) (h : Memory.wf font m)
    (hend : a + bs.length ≤ Config.memSize) :
    Memory.read font (Memory.writeBytes font m a bs) a' =
      if a ≤ a' ∧ a' < a + bs.length then bs.getD (a' - a) 0 else Memory.read font m a' := by
  induction bs generalizing m a with
  | nil => simp [Memory.writeBytes]
  | cons b bs ih =>
    simp only [List.length_cons] at hend ⊢
    simp only [Memory.writeBytes]
    rw [ih (Memory.write_wf h) (by omega)]
    by_cases hsame : a' = a
    · subst hsame
      rw [if_neg (by omega), if_pos (by omega), Memory.read_write_same h (by omega)]
      simp
    · rw [Memory.read_write_ne hsame]
      by_cases hin : a + 1 ≤ a' ∧ a' < a + 1 + bs.length
      · rw [if_pos hin, if_pos (by omega), show a' - a = (a' - (a + 1)) + 1 by omega]
        simp
      · rw [if_neg hin, if_neg (by omega)]

@[simp] theorem Memory.readBytes_length (count : Nat) :
    (Memory.readBytes font m a count).length = count := by
  induction count generalizing a with
  | zero => rfl
  | succ n ih => simp [Memory.readBytes, ih]

/-- Byte `k` of a block is the byte at its address. -/
theorem Memory.readBytes_getD {count k : Nat} (hk : k < count) :
    (Memory.readBytes font m a count).getD k 0 = Memory.read font m (a + k) := by
  induction count generalizing a k with
  | zero => omega
  | succ n ih =>
    cases k with
    | zero => simp [Memory.readBytes]
    | succ k =>
      have := ih (a := a + 1) (show k < n by omega)
      simpa [Memory.readBytes, Nat.add_assoc, Nat.add_comm 1 k] using this

/-- Memories that read alike give the same blocks. -/
theorem Memory.readBytes_congr {m' : Memory} {font' : List Byte} {count : Nat}
    (h : ∀ k, k < count → Memory.read font m (a + k) = Memory.read font' m' (a + k)) :
    Memory.readBytes font m a count = Memory.readBytes font' m' a count := by
  induction count generalizing a with
  | zero => rfl
  | succ n ih =>
    simp only [Memory.readBytes]
    congr 1
    · simpa using h 0 (by omega)
    · exact ih fun k hk => by simpa [Nat.add_assoc, Nat.add_comm 1 k] using h (k + 1) (by omega)

/-! ## Through the state -/

theorem State.memWith_wf {s : State} (bs : List Byte) (h : Memory.wf s.cfg.fontTable s.mem) :
    Memory.wf s.cfg.fontTable (s.memWith a bs) := Memory.writeBytes_wf bs h

/-- Reading the state whose memory has a block stored into it. -/
theorem State.readByte_setMem_memWith {s : State} (bs : List Byte)
    (h : Memory.wf s.cfg.fontTable s.mem) (hend : a + bs.length ≤ Config.memSize) :
    (s.setMem (s.memWith a bs)).readByte a' =
      if a ≤ a' ∧ a' < a + bs.length then bs.getD (a' - a) 0 else s.readByte a' :=
  Memory.read_writeBytes bs h hend

@[simp] theorem State.readBlock_length (s : State) (count : Nat) :
    (s.readBlock a count).length = count := Memory.readBytes_length count

theorem State.readBlock_getD {s : State} {count k : Nat} (hk : k < count) :
    (s.readBlock a count).getD k 0 = s.readByte (a + k) := Memory.readBytes_getD hk

end Sys2Proof.Machine
end

