-- ==== Sys2Proof/Laws/State.lean ====
section
/-! SUPPORT. What each named update of the state does to each field, one lemma a field, true by
unfolding the update once; later proofs cite these and unfold no update. -/

namespace Sys2Proof.Machine

variable (s : State)

/-! ## `State.setPc` -/

@[simp] theorem State.setPc_v (p : Word) : (s.setPc p).v = s.v := rfl
@[simp] theorem State.setPc_pc (p : Word) : (s.setPc p).pc = p := rfl
@[simp] theorem State.setPc_i (p : Word) : (s.setPc p).i = s.i := rfl
@[simp] theorem State.setPc_stack (p : Word) : (s.setPc p).stack = s.stack := rfl
@[simp] theorem State.setPc_sp (p : Word) : (s.setPc p).sp = s.sp := rfl
@[simp] theorem State.setPc_mem (p : Word) : (s.setPc p).mem = s.mem := rfl
@[simp] theorem State.setPc_fb (p : Word) : (s.setPc p).fb = s.fb := rfl
@[simp] theorem State.setPc_dirty (p : Word) : (s.setPc p).dirty = s.dirty := rfl
@[simp] theorem State.setPc_dtValue (p : Word) : (s.setPc p).dtValue = s.dtValue := rfl
@[simp] theorem State.setPc_dtStart (p : Word) : (s.setPc p).dtStart = s.dtStart := rfl
@[simp] theorem State.setPc_st (p : Word) : (s.setPc p).st = s.st := rfl
@[simp] theorem State.setPc_fault (p : Word) : (s.setPc p).fault = s.fault := rfl
@[simp] theorem State.setPc_cfg (p : Word) : (s.setPc p).cfg = s.cfg := rfl
@[simp] theorem State.setPc_input (p : Word) : (s.setPc p).input = s.input := rfl
@[simp] theorem State.setPc_pending (p : Word) : (s.setPc p).pending = s.pending := rfl
@[simp] theorem State.setPc_samples (p : Word) : (s.setPc p).samples = s.samples := rfl
@[simp] theorem State.setPc_out (p : Word) : (s.setPc p).out = s.out := rfl

/-! ## `State.setV` -/

@[simp] theorem State.setV_v (w : Vector Byte 16) : (s.setV w).v = w := rfl
@[simp] theorem State.setV_pc (w : Vector Byte 16) : (s.setV w).pc = s.pc := rfl
@[simp] theorem State.setV_i (w : Vector Byte 16) : (s.setV w).i = s.i := rfl
@[simp] theorem State.setV_stack (w : Vector Byte 16) : (s.setV w).stack = s.stack := rfl
@[simp] theorem State.setV_sp (w : Vector Byte 16) : (s.setV w).sp = s.sp := rfl
@[simp] theorem State.setV_mem (w : Vector Byte 16) : (s.setV w).mem = s.mem := rfl
@[simp] theorem State.setV_fb (w : Vector Byte 16) : (s.setV w).fb = s.fb := rfl
@[simp] theorem State.setV_dirty (w : Vector Byte 16) : (s.setV w).dirty = s.dirty := rfl
@[simp] theorem State.setV_dtValue (w : Vector Byte 16) : (s.setV w).dtValue = s.dtValue := rfl
@[simp] theorem State.setV_dtStart (w : Vector Byte 16) : (s.setV w).dtStart = s.dtStart := rfl
@[simp] theorem State.setV_st (w : Vector Byte 16) : (s.setV w).st = s.st := rfl
@[simp] theorem State.setV_fault (w : Vector Byte 16) : (s.setV w).fault = s.fault := rfl
@[simp] theorem State.setV_cfg (w : Vector Byte 16) : (s.setV w).cfg = s.cfg := rfl
@[simp] theorem State.setV_input (w : Vector Byte 16) : (s.setV w).input = s.input := rfl
@[simp] theorem State.setV_pending (w : Vector Byte 16) : (s.setV w).pending = s.pending := rfl
@[simp] theorem State.setV_samples (w : Vector Byte 16) : (s.setV w).samples = s.samples := rfl
@[simp] theorem State.setV_out (w : Vector Byte 16) : (s.setV w).out = s.out := rfl

/-! ## `State.setI` -/

@[simp] theorem State.setI_v (a : Word) : (s.setI a).v = s.v := rfl
@[simp] theorem State.setI_pc (a : Word) : (s.setI a).pc = s.pc := rfl
@[simp] theorem State.setI_i (a : Word) : (s.setI a).i = a := rfl
@[simp] theorem State.setI_stack (a : Word) : (s.setI a).stack = s.stack := rfl
@[simp] theorem State.setI_sp (a : Word) : (s.setI a).sp = s.sp := rfl
@[simp] theorem State.setI_mem (a : Word) : (s.setI a).mem = s.mem := rfl
@[simp] theorem State.setI_fb (a : Word) : (s.setI a).fb = s.fb := rfl
@[simp] theorem State.setI_dirty (a : Word) : (s.setI a).dirty = s.dirty := rfl
@[simp] theorem State.setI_dtValue (a : Word) : (s.setI a).dtValue = s.dtValue := rfl
@[simp] theorem State.setI_dtStart (a : Word) : (s.setI a).dtStart = s.dtStart := rfl
@[simp] theorem State.setI_st (a : Word) : (s.setI a).st = s.st := rfl
@[simp] theorem State.setI_fault (a : Word) : (s.setI a).fault = s.fault := rfl
@[simp] theorem State.setI_cfg (a : Word) : (s.setI a).cfg = s.cfg := rfl
@[simp] theorem State.setI_input (a : Word) : (s.setI a).input = s.input := rfl
@[simp] theorem State.setI_pending (a : Word) : (s.setI a).pending = s.pending := rfl
@[simp] theorem State.setI_samples (a : Word) : (s.setI a).samples = s.samples := rfl
@[simp] theorem State.setI_out (a : Word) : (s.setI a).out = s.out := rfl

/-! ## `State.setStack` -/

@[simp] theorem State.setStack_v (k : Vector Word 16) (n : Fin 17) : (s.setStack k n).v = s.v := rfl
@[simp] theorem State.setStack_pc (k : Vector Word 16) (n : Fin 17) : (s.setStack k n).pc = s.pc := rfl
@[simp] theorem State.setStack_i (k : Vector Word 16) (n : Fin 17) : (s.setStack k n).i = s.i := rfl
@[simp] theorem State.setStack_stack (k : Vector Word 16) (n : Fin 17) : (s.setStack k n).stack = k := rfl
@[simp] theorem State.setStack_sp (k : Vector Word 16) (n : Fin 17) : (s.setStack k n).sp = n := rfl
@[simp] theorem State.setStack_mem (k : Vector Word 16) (n : Fin 17) : (s.setStack k n).mem = s.mem := rfl
@[simp] theorem State.setStack_fb (k : Vector Word 16) (n : Fin 17) : (s.setStack k n).fb = s.fb := rfl
@[simp] theorem State.setStack_dirty (k : Vector Word 16) (n : Fin 17) : (s.setStack k n).dirty = s.dirty := rfl
@[simp] theorem State.setStack_dtValue (k : Vector Word 16) (n : Fin 17) : (s.setStack k n).dtValue = s.dtValue := rfl
@[simp] theorem State.setStack_dtStart (k : Vector Word 16) (n : Fin 17) : (s.setStack k n).dtStart = s.dtStart := rfl
@[simp] theorem State.setStack_st (k : Vector Word 16) (n : Fin 17) : (s.setStack k n).st = s.st := rfl
@[simp] theorem State.setStack_fault (k : Vector Word 16) (n : Fin 17) : (s.setStack k n).fault = s.fault := rfl
@[simp] theorem State.setStack_cfg (k : Vector Word 16) (n : Fin 17) : (s.setStack k n).cfg = s.cfg := rfl
@[simp] theorem State.setStack_input (k : Vector Word 16) (n : Fin 17) : (s.setStack k n).input = s.input := rfl
@[simp] theorem State.setStack_pending (k : Vector Word 16) (n : Fin 17) : (s.setStack k n).pending = s.pending := rfl
@[simp] theorem State.setStack_samples (k : Vector Word 16) (n : Fin 17) : (s.setStack k n).samples = s.samples := rfl
@[simp] theorem State.setStack_out (k : Vector Word 16) (n : Fin 17) : (s.setStack k n).out = s.out := rfl

/-! ## `State.setMem` -/

@[simp] theorem State.setMem_v (m : Memory) : (s.setMem m).v = s.v := rfl
@[simp] theorem State.setMem_pc (m : Memory) : (s.setMem m).pc = s.pc := rfl
@[simp] theorem State.setMem_i (m : Memory) : (s.setMem m).i = s.i := rfl
@[simp] theorem State.setMem_stack (m : Memory) : (s.setMem m).stack = s.stack := rfl
@[simp] theorem State.setMem_sp (m : Memory) : (s.setMem m).sp = s.sp := rfl
@[simp] theorem State.setMem_mem (m : Memory) : (s.setMem m).mem = m := rfl
@[simp] theorem State.setMem_fb (m : Memory) : (s.setMem m).fb = s.fb := rfl
@[simp] theorem State.setMem_dirty (m : Memory) : (s.setMem m).dirty = s.dirty := rfl
@[simp] theorem State.setMem_dtValue (m : Memory) : (s.setMem m).dtValue = s.dtValue := rfl
@[simp] theorem State.setMem_dtStart (m : Memory) : (s.setMem m).dtStart = s.dtStart := rfl
@[simp] theorem State.setMem_st (m : Memory) : (s.setMem m).st = s.st := rfl
@[simp] theorem State.setMem_fault (m : Memory) : (s.setMem m).fault = s.fault := rfl
@[simp] theorem State.setMem_cfg (m : Memory) : (s.setMem m).cfg = s.cfg := rfl
@[simp] theorem State.setMem_input (m : Memory) : (s.setMem m).input = s.input := rfl
@[simp] theorem State.setMem_pending (m : Memory) : (s.setMem m).pending = s.pending := rfl
@[simp] theorem State.setMem_samples (m : Memory) : (s.setMem m).samples = s.samples := rfl
@[simp] theorem State.setMem_out (m : Memory) : (s.setMem m).out = s.out := rfl

/-! ## `State.paint` -/

@[simp] theorem State.paint_v (f : Framebuffer) : (s.paint f).v = s.v := rfl
@[simp] theorem State.paint_pc (f : Framebuffer) : (s.paint f).pc = s.pc := rfl
@[simp] theorem State.paint_i (f : Framebuffer) : (s.paint f).i = s.i := rfl
@[simp] theorem State.paint_stack (f : Framebuffer) : (s.paint f).stack = s.stack := rfl
@[simp] theorem State.paint_sp (f : Framebuffer) : (s.paint f).sp = s.sp := rfl
@[simp] theorem State.paint_mem (f : Framebuffer) : (s.paint f).mem = s.mem := rfl
@[simp] theorem State.paint_fb (f : Framebuffer) : (s.paint f).fb = f := rfl
@[simp] theorem State.paint_dirty (f : Framebuffer) : (s.paint f).dirty = true := rfl
@[simp] theorem State.paint_dtValue (f : Framebuffer) : (s.paint f).dtValue = s.dtValue := rfl
@[simp] theorem State.paint_dtStart (f : Framebuffer) : (s.paint f).dtStart = s.dtStart := rfl
@[simp] theorem State.paint_st (f : Framebuffer) : (s.paint f).st = s.st := rfl
@[simp] theorem State.paint_fault (f : Framebuffer) : (s.paint f).fault = s.fault := rfl
@[simp] theorem State.paint_cfg (f : Framebuffer) : (s.paint f).cfg = s.cfg := rfl
@[simp] theorem State.paint_input (f : Framebuffer) : (s.paint f).input = s.input := rfl
@[simp] theorem State.paint_pending (f : Framebuffer) : (s.paint f).pending = s.pending := rfl
@[simp] theorem State.paint_samples (f : Framebuffer) : (s.paint f).samples = s.samples := rfl
@[simp] theorem State.paint_out (f : Framebuffer) : (s.paint f).out = { s.out with fbWritten := true } := rfl

/-! ## `State.setDelay` -/

@[simp] theorem State.setDelay_v (b : Byte) (t : Nat) : (s.setDelay b t).v = s.v := rfl
@[simp] theorem State.setDelay_pc (b : Byte) (t : Nat) : (s.setDelay b t).pc = s.pc := rfl
@[simp] theorem State.setDelay_i (b : Byte) (t : Nat) : (s.setDelay b t).i = s.i := rfl
@[simp] theorem State.setDelay_stack (b : Byte) (t : Nat) : (s.setDelay b t).stack = s.stack := rfl
@[simp] theorem State.setDelay_sp (b : Byte) (t : Nat) : (s.setDelay b t).sp = s.sp := rfl
@[simp] theorem State.setDelay_mem (b : Byte) (t : Nat) : (s.setDelay b t).mem = s.mem := rfl
@[simp] theorem State.setDelay_fb (b : Byte) (t : Nat) : (s.setDelay b t).fb = s.fb := rfl
@[simp] theorem State.setDelay_dirty (b : Byte) (t : Nat) : (s.setDelay b t).dirty = s.dirty := rfl
@[simp] theorem State.setDelay_dtValue (b : Byte) (t : Nat) : (s.setDelay b t).dtValue = b := rfl
@[simp] theorem State.setDelay_dtStart (b : Byte) (t : Nat) : (s.setDelay b t).dtStart = t := rfl
@[simp] theorem State.setDelay_st (b : Byte) (t : Nat) : (s.setDelay b t).st = s.st := rfl
@[simp] theorem State.setDelay_fault (b : Byte) (t : Nat) : (s.setDelay b t).fault = s.fault := rfl
@[simp] theorem State.setDelay_cfg (b : Byte) (t : Nat) : (s.setDelay b t).cfg = s.cfg := rfl
@[simp] theorem State.setDelay_input (b : Byte) (t : Nat) : (s.setDelay b t).input = s.input := rfl
@[simp] theorem State.setDelay_pending (b : Byte) (t : Nat) : (s.setDelay b t).pending = s.pending := rfl
@[simp] theorem State.setDelay_samples (b : Byte) (t : Nat) : (s.setDelay b t).samples = s.samples := rfl
@[simp] theorem State.setDelay_out (b : Byte) (t : Nat) : (s.setDelay b t).out = s.out := rfl

/-! ## `State.setSound` -/

@[simp] theorem State.setSound_v (b : Byte) : (s.setSound b).v = s.v := rfl
@[simp] theorem State.setSound_pc (b : Byte) : (s.setSound b).pc = s.pc := rfl
@[simp] theorem State.setSound_i (b : Byte) : (s.setSound b).i = s.i := rfl
@[simp] theorem State.setSound_stack (b : Byte) : (s.setSound b).stack = s.stack := rfl
@[simp] theorem State.setSound_sp (b : Byte) : (s.setSound b).sp = s.sp := rfl
@[simp] theorem State.setSound_mem (b : Byte) : (s.setSound b).mem = s.mem := rfl
@[simp] theorem State.setSound_fb (b : Byte) : (s.setSound b).fb = s.fb := rfl
@[simp] theorem State.setSound_dirty (b : Byte) : (s.setSound b).dirty = s.dirty := rfl
@[simp] theorem State.setSound_dtValue (b : Byte) : (s.setSound b).dtValue = s.dtValue := rfl
@[simp] theorem State.setSound_dtStart (b : Byte) : (s.setSound b).dtStart = s.dtStart := rfl
@[simp] theorem State.setSound_st (b : Byte) : (s.setSound b).st = b := rfl
@[simp] theorem State.setSound_fault (b : Byte) : (s.setSound b).fault = s.fault := rfl
@[simp] theorem State.setSound_cfg (b : Byte) : (s.setSound b).cfg = s.cfg := rfl
@[simp] theorem State.setSound_input (b : Byte) : (s.setSound b).input = s.input := rfl
@[simp] theorem State.setSound_pending (b : Byte) : (s.setSound b).pending = s.pending := rfl
@[simp] theorem State.setSound_samples (b : Byte) : (s.setSound b).samples = s.samples := rfl
@[simp] theorem State.setSound_out (b : Byte) : (s.setSound b).out = s.out := rfl

/-! ## `State.setReg` -/

@[simp] theorem State.setReg_v (x : Reg) (b : Byte) : (s.setReg x b).v = s.v.set x b := rfl
@[simp] theorem State.setReg_pc (x : Reg) (b : Byte) : (s.setReg x b).pc = s.pc := rfl
@[simp] theorem State.setReg_i (x : Reg) (b : Byte) : (s.setReg x b).i = s.i := rfl
@[simp] theorem State.setReg_stack (x : Reg) (b : Byte) : (s.setReg x b).stack = s.stack := rfl
@[simp] theorem State.setReg_sp (x : Reg) (b : Byte) : (s.setReg x b).sp = s.sp := rfl
@[simp] theorem State.setReg_mem (x : Reg) (b : Byte) : (s.setReg x b).mem = s.mem := rfl
@[simp] theorem State.setReg_fb (x : Reg) (b : Byte) : (s.setReg x b).fb = s.fb := rfl
@[simp] theorem State.setReg_dirty (x : Reg) (b : Byte) : (s.setReg x b).dirty = s.dirty := rfl
@[simp] theorem State.setReg_dtValue (x : Reg) (b : Byte) : (s.setReg x b).dtValue = s.dtValue := rfl
@[simp] theorem State.setReg_dtStart (x : Reg) (b : Byte) : (s.setReg x b).dtStart = s.dtStart := rfl
@[simp] theorem State.setReg_st (x : Reg) (b : Byte) : (s.setReg x b).st = s.st := rfl
@[simp] theorem State.setReg_fault (x : Reg) (b : Byte) : (s.setReg x b).fault = s.fault := rfl
@[simp] theorem State.setReg_cfg (x : Reg) (b : Byte) : (s.setReg x b).cfg = s.cfg := rfl
@[simp] theorem State.setReg_input (x : Reg) (b : Byte) : (s.setReg x b).input = s.input := rfl
@[simp] theorem State.setReg_pending (x : Reg) (b : Byte) : (s.setReg x b).pending = s.pending := rfl
@[simp] theorem State.setReg_samples (x : Reg) (b : Byte) : (s.setReg x b).samples = s.samples := rfl
@[simp] theorem State.setReg_out (x : Reg) (b : Byte) : (s.setReg x b).out = s.out := rfl

/-! ## `State.setRegFlag` -/

@[simp] theorem State.setRegFlag_v (x : Reg) (b : Byte) (f : Bool) : (s.setRegFlag x b f).v = (s.v.set x b).set flagReg (flagByte f) := rfl
@[simp] theorem State.setRegFlag_pc (x : Reg) (b : Byte) (f : Bool) : (s.setRegFlag x b f).pc = s.pc := rfl
@[simp] theorem State.setRegFlag_i (x : Reg) (b : Byte) (f : Bool) : (s.setRegFlag x b f).i = s.i := rfl
@[simp] theorem State.setRegFlag_stack (x : Reg) (b : Byte) (f : Bool) : (s.setRegFlag x b f).stack = s.stack := rfl
@[simp] theorem State.setRegFlag_sp (x : Reg) (b : Byte) (f : Bool) : (s.setRegFlag x b f).sp = s.sp := rfl
@[simp] theorem State.setRegFlag_mem (x : Reg) (b : Byte) (f : Bool) : (s.setRegFlag x b f).mem = s.mem := rfl
@[simp] theorem State.setRegFlag_fb (x : Reg) (b : Byte) (f : Bool) : (s.setRegFlag x b f).fb = s.fb := rfl
@[simp] theorem State.setRegFlag_dirty (x : Reg) (b : Byte) (f : Bool) : (s.setRegFlag x b f).dirty = s.dirty := rfl
@[simp] theorem State.setRegFlag_dtValue (x : Reg) (b : Byte) (f : Bool) : (s.setRegFlag x b f).dtValue = s.dtValue := rfl
@[simp] theorem State.setRegFlag_dtStart (x : Reg) (b : Byte) (f : Bool) : (s.setRegFlag x b f).dtStart = s.dtStart := rfl
@[simp] theorem State.setRegFlag_st (x : Reg) (b : Byte) (f : Bool) : (s.setRegFlag x b f).st = s.st := rfl
@[simp] theorem State.setRegFlag_fault (x : Reg) (b : Byte) (f : Bool) : (s.setRegFlag x b f).fault = s.fault := rfl
@[simp] theorem State.setRegFlag_cfg (x : Reg) (b : Byte) (f : Bool) : (s.setRegFlag x b f).cfg = s.cfg := rfl
@[simp] theorem State.setRegFlag_input (x : Reg) (b : Byte) (f : Bool) : (s.setRegFlag x b f).input = s.input := rfl
@[simp] theorem State.setRegFlag_pending (x : Reg) (b : Byte) (f : Bool) : (s.setRegFlag x b f).pending = s.pending := rfl
@[simp] theorem State.setRegFlag_samples (x : Reg) (b : Byte) (f : Bool) : (s.setRegFlag x b f).samples = s.samples := rfl
@[simp] theorem State.setRegFlag_out (x : Reg) (b : Byte) (f : Bool) : (s.setRegFlag x b f).out = s.out := rfl

/-! ## `State.advance` -/

@[simp] theorem State.advance_v : (s.advance).v = s.v := rfl
@[simp] theorem State.advance_pc : (s.advance).pc = s.pc + 2 := rfl
@[simp] theorem State.advance_i : (s.advance).i = s.i := rfl
@[simp] theorem State.advance_stack : (s.advance).stack = s.stack := rfl
@[simp] theorem State.advance_sp : (s.advance).sp = s.sp := rfl
@[simp] theorem State.advance_mem : (s.advance).mem = s.mem := rfl
@[simp] theorem State.advance_fb : (s.advance).fb = s.fb := rfl
@[simp] theorem State.advance_dirty : (s.advance).dirty = s.dirty := rfl
@[simp] theorem State.advance_dtValue : (s.advance).dtValue = s.dtValue := rfl
@[simp] theorem State.advance_dtStart : (s.advance).dtStart = s.dtStart := rfl
@[simp] theorem State.advance_st : (s.advance).st = s.st := rfl
@[simp] theorem State.advance_fault : (s.advance).fault = s.fault := rfl
@[simp] theorem State.advance_cfg : (s.advance).cfg = s.cfg := rfl
@[simp] theorem State.advance_input : (s.advance).input = s.input := rfl
@[simp] theorem State.advance_pending : (s.advance).pending = s.pending := rfl
@[simp] theorem State.advance_samples : (s.advance).samples = s.samples := rfl
@[simp] theorem State.advance_out : (s.advance).out = s.out := rfl

/-! ## `State.skipIf` -/

@[simp] theorem State.skipIf_v (c : Bool) : (s.skipIf c).v = s.v := rfl
@[simp] theorem State.skipIf_pc (c : Bool) : (s.skipIf c).pc = s.pc + if c then 4 else 2 := rfl
@[simp] theorem State.skipIf_i (c : Bool) : (s.skipIf c).i = s.i := rfl
@[simp] theorem State.skipIf_stack (c : Bool) : (s.skipIf c).stack = s.stack := rfl
@[simp] theorem State.skipIf_sp (c : Bool) : (s.skipIf c).sp = s.sp := rfl
@[simp] theorem State.skipIf_mem (c : Bool) : (s.skipIf c).mem = s.mem := rfl
@[simp] theorem State.skipIf_fb (c : Bool) : (s.skipIf c).fb = s.fb := rfl
@[simp] theorem State.skipIf_dirty (c : Bool) : (s.skipIf c).dirty = s.dirty := rfl
@[simp] theorem State.skipIf_dtValue (c : Bool) : (s.skipIf c).dtValue = s.dtValue := rfl
@[simp] theorem State.skipIf_dtStart (c : Bool) : (s.skipIf c).dtStart = s.dtStart := rfl
@[simp] theorem State.skipIf_st (c : Bool) : (s.skipIf c).st = s.st := rfl
@[simp] theorem State.skipIf_fault (c : Bool) : (s.skipIf c).fault = s.fault := rfl
@[simp] theorem State.skipIf_cfg (c : Bool) : (s.skipIf c).cfg = s.cfg := rfl
@[simp] theorem State.skipIf_input (c : Bool) : (s.skipIf c).input = s.input := rfl
@[simp] theorem State.skipIf_pending (c : Bool) : (s.skipIf c).pending = s.pending := rfl
@[simp] theorem State.skipIf_samples (c : Bool) : (s.skipIf c).samples = s.samples := rfl
@[simp] theorem State.skipIf_out (c : Bool) : (s.skipIf c).out = s.out := rfl

/-! ## `State.recordFault` -/

@[simp] theorem State.recordFault_v (c : FaultCause) (w : Word) : (s.recordFault c w).v = s.v := rfl
@[simp] theorem State.recordFault_pc (c : FaultCause) (w : Word) : (s.recordFault c w).pc = s.pc := rfl
@[simp] theorem State.recordFault_i (c : FaultCause) (w : Word) : (s.recordFault c w).i = s.i := rfl
@[simp] theorem State.recordFault_stack (c : FaultCause) (w : Word) : (s.recordFault c w).stack = s.stack := rfl
@[simp] theorem State.recordFault_sp (c : FaultCause) (w : Word) : (s.recordFault c w).sp = s.sp := rfl
@[simp] theorem State.recordFault_mem (c : FaultCause) (w : Word) : (s.recordFault c w).mem = s.mem := rfl
@[simp] theorem State.recordFault_fb (c : FaultCause) (w : Word) : (s.recordFault c w).fb = s.fb := rfl
@[simp] theorem State.recordFault_dirty (c : FaultCause) (w : Word) : (s.recordFault c w).dirty = s.dirty := rfl
@[simp] theorem State.recordFault_dtValue (c : FaultCause) (w : Word) : (s.recordFault c w).dtValue = s.dtValue := rfl
@[simp] theorem State.recordFault_dtStart (c : FaultCause) (w : Word) : (s.recordFault c w).dtStart = s.dtStart := rfl
@[simp] theorem State.recordFault_st (c : FaultCause) (w : Word) : (s.recordFault c w).st = s.st := rfl
@[simp] theorem State.recordFault_fault (c : FaultCause) (w : Word) : (s.recordFault c w).fault = { cause := c, pc := s.pc, info := w } := rfl
@[simp] theorem State.recordFault_cfg (c : FaultCause) (w : Word) : (s.recordFault c w).cfg = s.cfg := rfl
@[simp] theorem State.recordFault_input (c : FaultCause) (w : Word) : (s.recordFault c w).input = s.input := rfl
@[simp] theorem State.recordFault_pending (c : FaultCause) (w : Word) : (s.recordFault c w).pending = s.pending := rfl
@[simp] theorem State.recordFault_samples (c : FaultCause) (w : Word) : (s.recordFault c w).samples = s.samples := rfl
@[simp] theorem State.recordFault_out (c : FaultCause) (w : Word) : (s.recordFault c w).out = { s.out with faultRaised := true } := rfl

/-! ## `State.skipUnrecognised` -/

@[simp] theorem State.skipUnrecognised_v (op : Word) : (s.skipUnrecognised op).v = s.v := rfl
@[simp] theorem State.skipUnrecognised_pc (op : Word) : (s.skipUnrecognised op).pc = s.pc + 2 := rfl
@[simp] theorem State.skipUnrecognised_i (op : Word) : (s.skipUnrecognised op).i = s.i := rfl
@[simp] theorem State.skipUnrecognised_stack (op : Word) : (s.skipUnrecognised op).stack = s.stack := rfl
@[simp] theorem State.skipUnrecognised_sp (op : Word) : (s.skipUnrecognised op).sp = s.sp := rfl
@[simp] theorem State.skipUnrecognised_mem (op : Word) : (s.skipUnrecognised op).mem = s.mem := rfl
@[simp] theorem State.skipUnrecognised_fb (op : Word) : (s.skipUnrecognised op).fb = s.fb := rfl
@[simp] theorem State.skipUnrecognised_dirty (op : Word) : (s.skipUnrecognised op).dirty = s.dirty := rfl
@[simp] theorem State.skipUnrecognised_dtValue (op : Word) : (s.skipUnrecognised op).dtValue = s.dtValue := rfl
@[simp] theorem State.skipUnrecognised_dtStart (op : Word) : (s.skipUnrecognised op).dtStart = s.dtStart := rfl
@[simp] theorem State.skipUnrecognised_st (op : Word) : (s.skipUnrecognised op).st = s.st := rfl
@[simp] theorem State.skipUnrecognised_fault (op : Word) : (s.skipUnrecognised op).fault = s.fault := rfl
@[simp] theorem State.skipUnrecognised_cfg (op : Word) : (s.skipUnrecognised op).cfg = s.cfg := rfl
@[simp] theorem State.skipUnrecognised_input (op : Word) : (s.skipUnrecognised op).input = s.input := rfl
@[simp] theorem State.skipUnrecognised_pending (op : Word) : (s.skipUnrecognised op).pending = s.pending := rfl
@[simp] theorem State.skipUnrecognised_samples (op : Word) : (s.skipUnrecognised op).samples = s.samples := rfl
@[simp] theorem State.skipUnrecognised_out (op : Word) : (s.skipUnrecognised op).out = { s.out with unrec := if reportsUnrecognised s.cfg op then some (s.pc, op) else none } := rfl

/-! ## `State.ackDirty` -/

@[simp] theorem State.ackDirty_v : (s.ackDirty).v = s.v := rfl
@[simp] theorem State.ackDirty_pc : (s.ackDirty).pc = s.pc := rfl
@[simp] theorem State.ackDirty_i : (s.ackDirty).i = s.i := rfl
@[simp] theorem State.ackDirty_stack : (s.ackDirty).stack = s.stack := rfl
@[simp] theorem State.ackDirty_sp : (s.ackDirty).sp = s.sp := rfl
@[simp] theorem State.ackDirty_mem : (s.ackDirty).mem = s.mem := rfl
@[simp] theorem State.ackDirty_fb : (s.ackDirty).fb = s.fb := rfl
@[simp] theorem State.ackDirty_dirty : (s.ackDirty).dirty = false := rfl
@[simp] theorem State.ackDirty_dtValue : (s.ackDirty).dtValue = s.dtValue := rfl
@[simp] theorem State.ackDirty_dtStart : (s.ackDirty).dtStart = s.dtStart := rfl
@[simp] theorem State.ackDirty_st : (s.ackDirty).st = s.st := rfl
@[simp] theorem State.ackDirty_fault : (s.ackDirty).fault = s.fault := rfl
@[simp] theorem State.ackDirty_cfg : (s.ackDirty).cfg = s.cfg := rfl
@[simp] theorem State.ackDirty_input : (s.ackDirty).input = s.input := rfl
@[simp] theorem State.ackDirty_pending : (s.ackDirty).pending = s.pending := rfl
@[simp] theorem State.ackDirty_samples : (s.ackDirty).samples = s.samples := rfl
@[simp] theorem State.ackDirty_out : (s.ackDirty).out = s.out := rfl

/-! ## `State.supply` -/

@[simp] theorem State.supply_pending (inp : StepInput) : (s.supply inp).pending = inp :: s.pending := rfl
@[simp] theorem State.supply_v (inp : StepInput) : (s.supply inp).v = s.v := rfl
@[simp] theorem State.supply_pc (inp : StepInput) : (s.supply inp).pc = s.pc := rfl
@[simp] theorem State.supply_i (inp : StepInput) : (s.supply inp).i = s.i := rfl
@[simp] theorem State.supply_stack (inp : StepInput) : (s.supply inp).stack = s.stack := rfl
@[simp] theorem State.supply_sp (inp : StepInput) : (s.supply inp).sp = s.sp := rfl
@[simp] theorem State.supply_mem (inp : StepInput) : (s.supply inp).mem = s.mem := rfl
@[simp] theorem State.supply_fb (inp : StepInput) : (s.supply inp).fb = s.fb := rfl
@[simp] theorem State.supply_dirty (inp : StepInput) : (s.supply inp).dirty = s.dirty := rfl
@[simp] theorem State.supply_dtValue (inp : StepInput) : (s.supply inp).dtValue = s.dtValue := rfl
@[simp] theorem State.supply_dtStart (inp : StepInput) : (s.supply inp).dtStart = s.dtStart := rfl
@[simp] theorem State.supply_st (inp : StepInput) : (s.supply inp).st = s.st := rfl
@[simp] theorem State.supply_fault (inp : StepInput) : (s.supply inp).fault = s.fault := rfl
@[simp] theorem State.supply_cfg (inp : StepInput) : (s.supply inp).cfg = s.cfg := rfl
@[simp] theorem State.supply_input (inp : StepInput) : (s.supply inp).input = s.input := rfl
@[simp] theorem State.supply_samples (inp : StepInput) : (s.supply inp).samples = s.samples := rfl
@[simp] theorem State.supply_out (inp : StepInput) : (s.supply inp).out = s.out := rfl

/-! ## `State.beginStep`: only the model's input and output fields change -/

@[simp] theorem State.beginStep_v : s.beginStep.v = s.v := by
  unfold State.beginStep; split <;> rfl
@[simp] theorem State.beginStep_pc : s.beginStep.pc = s.pc := by
  unfold State.beginStep; split <;> rfl
@[simp] theorem State.beginStep_i : s.beginStep.i = s.i := by
  unfold State.beginStep; split <;> rfl
@[simp] theorem State.beginStep_stack : s.beginStep.stack = s.stack := by
  unfold State.beginStep; split <;> rfl
@[simp] theorem State.beginStep_sp : s.beginStep.sp = s.sp := by
  unfold State.beginStep; split <;> rfl
@[simp] theorem State.beginStep_mem : s.beginStep.mem = s.mem := by
  unfold State.beginStep; split <;> rfl
@[simp] theorem State.beginStep_fb : s.beginStep.fb = s.fb := by
  unfold State.beginStep; split <;> rfl
@[simp] theorem State.beginStep_dirty : s.beginStep.dirty = s.dirty := by
  unfold State.beginStep; split <;> rfl
@[simp] theorem State.beginStep_dtValue : s.beginStep.dtValue = s.dtValue := by
  unfold State.beginStep; split <;> rfl
@[simp] theorem State.beginStep_dtStart : s.beginStep.dtStart = s.dtStart := by
  unfold State.beginStep; split <;> rfl
@[simp] theorem State.beginStep_st : s.beginStep.st = s.st := by
  unfold State.beginStep; split <;> rfl
@[simp] theorem State.beginStep_fault : s.beginStep.fault = s.fault := by
  unfold State.beginStep; split <;> rfl
@[simp] theorem State.beginStep_cfg : s.beginStep.cfg = s.cfg := by
  unfold State.beginStep; split <;> rfl
@[simp] theorem State.beginStep_out : s.beginStep.out = .quiet := by
  unfold State.beginStep; split <;> rfl

/-- A step takes the next inputs of the host's list. -/
theorem State.beginStep_of_pending {s : State} {inp : StepInput} {rest : List StepInput}
    (h : s.pending = inp :: rest) :
    s.beginStep = { s with input := inp, pending := rest, out := .quiet } := by
  unfold State.beginStep; rw [h]

/-- A step without supplied inputs draws a free value. -/
theorem State.beginStep_of_empty {s : State} (h : s.pending = []) :
    s.beginStep =
      { s with input := Config.freeInput s.samples, samples := s.samples + 1, out := .quiet } := by
  unfold State.beginStep; rw [h]

/-- A step that the host gives its inputs samples them and leaves the host's list as it was. -/
theorem State.beginStep_supply (inp : StepInput) :
    (s.supply inp).beginStep = { s with input := inp, out := .quiet } := rfl

/-! ## Reading registers and memory of an updated state -/

@[simp] theorem State.reg_def (x : Reg) : s.reg x = s.v[x] := rfl

@[simp] theorem State.beginStep_readByte (a : Nat) : s.beginStep.readByte a = s.readByte a := by
  simp [State.readByte]

@[simp] theorem State.beginStep_fetchWord : s.beginStep.fetchWord = s.fetchWord := by
  simp [State.fetchWord]

@[simp] theorem State.beginStep_faulted : s.beginStep.faulted = s.faulted := by
  simp [State.faulted]

@[simp] theorem State.beginStep_canFetch : s.beginStep.canFetch = s.canFetch := by
  simp [State.canFetch]

end Sys2Proof.Machine
end

