-- ==== Sys2Proof/Laws/Ops.lean ====
section
/-! SUPPORT. What each shared operation can do, said once: the two checks, the fault entry, the loads of
registers, the scan of the key wait, the flag byte, the delay timer. -/

namespace Sys2Proof.Machine

/-! ## Checks and the fault entry -/

/-- A block inside memory, or an empty one: the body runs. -/
theorem checkBlock_of_inside {count : Nat} {s : State} {body : Result}
    (h : count = 0 ∨ s.i.toNat + count ≤ 4096) : checkBlock count s body = body := by
  unfold checkBlock State.blockTop Config.memSize
  rw [if_pos (by omega)]

/-- A block that leaves memory: the fault is recorded with the highest address. -/
theorem checkBlock_of_outside {count : Nat} {s : State} {body : Result}
    (hc : count ≠ 0) (h : 4096 < s.i.toNat + count) :
    checkBlock count s body =
      .next (s.recordFault .memOutOfRange (BitVec.ofNat 16 (s.i.toNat + count - 1))) := by
  unfold checkBlock State.blockTop Config.memSize raiseFault
  rw [if_neg (by omega)]

/-- A checked body answers: its own next state, or the recorded fault. -/
theorem checkBlock_cases {count : Nat} {s t : State} {body : Result}
    (h : checkBlock count s body = .next t) :
    (body = .next t ∧ (count = 0 ∨ s.i.toNat + count ≤ 4096)) ∨
      (count ≠ 0 ∧ 4096 < s.i.toNat + count ∧
        t = s.recordFault .memOutOfRange (BitVec.ofNat 16 (s.i.toNat + count - 1))) := by
  by_cases hin : count = 0 ∨ s.i.toNat + count ≤ 4096
  · exact .inl ⟨by rwa [checkBlock_of_inside hin] at h, hin⟩
  · rw [checkBlock_of_outside (by omega) (by omega)] at h
    exact .inr ⟨by omega, by omega, by simpa using h.symm⟩

theorem checkKeyIndex_of_slot {x : Reg} {s : State} {body : Result} (h : s.v[x].toNat ≤ 15) :
    checkKeyIndex x s body = body := by
  unfold checkKeyIndex Config.numKeys
  rw [if_pos (by rw [State.reg_def]; omega)]

theorem checkKeyIndex_of_no_slot {x : Reg} {s : State} {body : Result} (h : 15 < s.v[x].toNat) :
    checkKeyIndex x s body = .next (s.recordFault .keyIndexOutOfRange (zext16 s.v[x])) := by
  unfold checkKeyIndex Config.numKeys raiseFault
  rw [if_neg (by rw [State.reg_def]; omega)]
  rfl

theorem checkKeyIndex_cases {x : Reg} {s t : State} {body : Result}
    (h : checkKeyIndex x s body = .next t) :
    (body = .next t ∧ s.v[x].toNat ≤ 15) ∨
      (15 < s.v[x].toNat ∧ t = s.recordFault .keyIndexOutOfRange (zext16 s.v[x])) := by
  by_cases hin : s.v[x].toNat ≤ 15
  · exact .inl ⟨by rwa [checkKeyIndex_of_slot hin] at h, hin⟩
  · rw [checkKeyIndex_of_no_slot (by omega)] at h
    exact .inr ⟨by omega, by simpa using h.symm⟩

theorem State.faulted_iff {s : State} : s.faulted = true ↔ s.fault.cause ≠ .noFault := by
  simp [State.faulted]

/-! ## Registers -/

/-- Reading register `k` after register `x` was written. -/
theorem regs_set_get (v : Vector Byte 16) (x k : Reg) (b : Byte) :
    (v.set x b)[k] = if k = x then b else v[k] := by
  simp only [Fin.getElem_fin, Vector.getElem_set, Fin.ext_iff, eq_comm]

theorem State.setReg_get (s : State) (x k : Reg) (b : Byte) :
    (s.setReg x b).v[k] = if k = x then b else s.v[k] := regs_set_get s.v x k b

/-- Reading register `k` after a result and a flag were written: the flag wins (R16). -/
theorem State.setRegFlag_get (s : State) (x k : Reg) (b : Byte) (f : Bool) :
    (s.setRegFlag x b f).v[k] =
      if k = flagReg then flagByte f else if k = x then b else s.v[k] := by
  rw [State.setRegFlag, State.setReg_get, State.setReg_get]

/-- After a load of registers from number `k` on, they hold the bytes; the others are unchanged. -/
theorem fillRegs_get (bs : List Byte) (v : Vector Byte 16) (k : Nat) (j : Reg) :
    (fillRegs v k bs)[j] = if k ≤ j.val ∧ j.val < k + bs.length then bs.getD (j.val - k) 0 else v[j] := by
  induction bs generalizing v k with
  | nil => simp [fillRegs]
  | cons b bs ih =>
    rw [fillRegs, ih]
    simp only [List.length_cons]
    by_cases hj : j.val = k
    · subst hj
      rw [if_neg (by omega), if_pos (by omega)]
      simp
    · have hne : (v.setIfInBounds k b)[j] = v[j] := by
        simp only [Fin.getElem_fin]
        exact Vector.getElem_setIfInBounds_ne _ (fun h => hj h.symm)
      by_cases hin : k + 1 ≤ j.val ∧ j.val < k + 1 + bs.length
      · rw [if_pos hin, if_pos (by omega), show j.val - k = (j.val - (k + 1)) + 1 by omega]
        simp
      · rw [if_neg hin, if_neg (by omega), hne]

/-- The first `x + 1` registers as a list. -/
theorem regs_take_length (v : Vector Byte 16) (x : Reg) :
    (v.toList.take (x.val + 1)).length = x.val + 1 := by
  simp

theorem regs_take_getD (v : Vector Byte 16) (x : Reg) {k : Nat} (hk : k ≤ x.val) :
    (v.toList.take (x.val + 1)).getD k 0 = v[k]'(by omega) := by
  have hlt : k < (v.toList.take (x.val + 1)).length := by rw [regs_take_length]; omega
  rw [List.getD_eq_getElem _ _ hlt]
  simp

/-! ## Flags -/

theorem flagByte_eq (f : Bool) : flagByte f = 0 ∨ flagByte f = 1 := by cases f <;> simp [flagByte]

theorem flagByte_toNat (f : Bool) : (flagByte f).toNat = f.toNat := by cases f <;> rfl

/-! ## The key wait's scan -/

/-- The scan finds slot `k`: it is unpressed and every lower slot is pressed. -/
theorem State.firstUnpressed_some {s : State} {k : Nat} :
    s.firstUnpressed = some k ↔
      k < 16 ∧ s.input.keys.getLsbD k = false ∧ ∀ j < k, s.input.keys.getLsbD j = true := by
  simp [State.firstUnpressed, State.keyPressed, List.find?_range_eq_some, and_left_comm]

/-- The scan finds no slot: every one is pressed. -/
theorem State.firstUnpressed_none {s : State} :
    s.firstUnpressed = none ↔ ∀ k < 16, s.input.keys.getLsbD k = true := by
  simp [State.firstUnpressed, State.keyPressed, List.find?_eq_none]

/-! ## The delay timer -/

/-- The live value as a number: what was set less the whole ticks elapsed, floored at zero. -/
theorem delayLive_toNat (value : Byte) (start now : Nat) :
    (delayLive value start now).toNat = value.toNat - (now - start) / dtTickMs := by
  rw [delayLive, BitVec.toNat_ofNat, Nat.mod_eq_of_lt (lt_of_le_of_lt (Nat.sub_le _ _) value.isLt)]
  exact tsub_min

end Sys2Proof.Machine
end

