-- ==== Sys2Proof/Laws/Display.lean ====
section
/-! SUPPORT. The laws of the framebuffer and of drawing (spec/44_display.md R93, R94, R96): the grid keeps
its shape, a draw toggles exactly the pixels its sprite bits touch, the collision tells whether one of
them was set. -/

namespace Sys2Proof.Machine

variable {cfg : Config} {fb : Framebuffer}

/-! ## Pixels -/

theorem fbShape_setPixel (h : fbShape cfg fb) (r c : Nat) (b : Bool) :
    fbShape cfg (setPixel fb r c b) := by
  refine ⟨by simp [setPixel, h.1], fun row hrow => ?_⟩
  obtain ⟨k, hk, rfl⟩ := List.mem_iff_getElem.mp hrow
  simp only [setPixel, List.length_modify] at hk
  simp only [setPixel, List.getElem_modify]
  split
  · simpa using h.2 _ (List.getElem_mem hk)
  · exact h.2 _ (List.getElem_mem hk)

/-- A pixel of a grid that has the right shape, as an indexed read. -/
theorem pixelAt_of_shape (h : fbShape cfg fb) {r c : Nat} (hr : r < cfg.fbHeight)
    (hc : c < cfg.fbWidth) :
    pixelAt fb r c =
      (fb[r]'(by rw [h.1]; exact hr))[c]'(by rw [h.2 _ (List.getElem_mem _)]; exact hc) := by
  have hr' : r < fb.length := by rw [h.1]; exact hr
  have hc' : c < fb[r].length := by rw [h.2 _ (List.getElem_mem _)]; exact hc
  rw [pixelAt, List.getD_eq_getElem _ _ hr', List.getD_eq_getElem _ _ hc']

/-- Setting a pixel of the grid changes that pixel and no other. -/
theorem pixelAt_setPixel (h : fbShape cfg fb) {r c r' c' : Nat} {b : Bool} (hr' : r' < cfg.fbHeight)
    (hc' : c' < cfg.fbWidth) :
    pixelAt (setPixel fb r c b) r' c' = if r' = r ∧ c' = c then b else pixelAt fb r' c' := by
  rw [pixelAt_of_shape (fbShape_setPixel h r c b) hr' hc', pixelAt_of_shape h hr' hc']
  simp only [setPixel, List.getElem_modify]
  by_cases he : r = r'
  · subst he
    simp only [if_true, List.getElem_set]
    by_cases hce : c = c'
    · simp [hce]
    · simp [hce, show ¬ c' = c from fun h => hce h.symm]
  · simp [he, show ¬ r' = r from fun h => he h.symm]

/-- Two grids of the same shape with the same pixels are the same grid. -/
theorem fb_ext {fb' : Framebuffer} (h : fbShape cfg fb) (h' : fbShape cfg fb')
    (hp : ∀ r < cfg.fbHeight, ∀ c < cfg.fbWidth, pixelAt fb r c = pixelAt fb' r c) : fb = fb' := by
  refine List.ext_getElem (by rw [h.1, h'.1]) fun r hr hr' => ?_
  have hrow := h.2 _ (List.getElem_mem hr)
  have hrow' := h'.2 _ (List.getElem_mem hr')
  refine List.ext_getElem (by rw [hrow, hrow']) fun c hc hc' => ?_
  have := hp r (by rw [← h.1]; exact hr) c (by rw [← hrow]; exact hc)
  rwa [pixelAt_of_shape h (by rw [← h.1]; exact hr) (by rw [← hrow]; exact hc),
    pixelAt_of_shape h' (by rw [← h.1]; exact hr) (by rw [← hrow]; exact hc)] at this

/-! ## The cleared grid -/

theorem fbShape_clearedFb (h : fbShape cfg fb) : fbShape cfg (clearedFb fb) := by
  refine ⟨by simp [clearedFb, h.1], fun row hrow => ?_⟩
  obtain ⟨row', hrow', rfl⟩ := List.mem_map.mp hrow
  simpa using h.2 row' hrow'

theorem pixelAt_clearedFb (fb : Framebuffer) (r c : Nat) : pixelAt (clearedFb fb) r c = false := by
  simp only [pixelAt, clearedFb, List.getD_eq_getElem?_getD, List.getElem?_map]
  cases fb[r]? with
  | none => simp
  | some row => cases row[c]? <;> simp

theorem fbShape_blank (cfg : Config) :
    fbShape cfg (List.replicate cfg.fbHeight (List.replicate cfg.fbWidth false)) :=
  ⟨by simp, fun row hrow => by rw [(List.mem_replicate.mp hrow).2]; simp⟩

/-! ## Drawing a list of pixels -/

theorem fbShape_xorTouch {acc : Framebuffer × Bool} (h : fbShape cfg acc.1) (t : Touch) :
    fbShape cfg (xorTouch acc t).1 := fbShape_setPixel h _ _ _

theorem fbShape_foldl {acc : Framebuffer × Bool} (h : fbShape cfg acc.1) (ts : List Touch) :
    fbShape cfg (ts.foldl xorTouch acc).1 := by
  induction ts generalizing acc with
  | nil => exact h
  | cons t ts ih => exact ih (fbShape_xorTouch h t)

/-- A draw keeps the shape of the grid. -/
theorem fbShape_drawTouches (h : fbShape cfg fb) (ts : List Touch) :
    fbShape cfg (drawTouches fb ts).1 := fbShape_foldl h ts

/-- The parity with which a list of pixels toggles pixel (`r`, `c`). -/
def touchParity (r c : Nat) : List Touch → Bool
  | [] => false
  | t :: ts => (decide (t.row = r ∧ t.col = c) && t.bit) ^^ touchParity r c ts

theorem pixelAt_foldl {acc : Framebuffer × Bool} (h : fbShape cfg acc.1) {ts : List Touch}
    (hin : ∀ t ∈ ts, t.row < cfg.fbHeight ∧ t.col < cfg.fbWidth) {r c : Nat} (hr : r < cfg.fbHeight)
    (hc : c < cfg.fbWidth) :
    pixelAt (ts.foldl xorTouch acc).1 r c = (pixelAt acc.1 r c ^^ touchParity r c ts) := by
  induction ts generalizing acc with
  | nil => simp [touchParity]
  | cons t ts ih =>
    rw [List.foldl_cons, ih (fbShape_xorTouch h t) fun u hu => hin u (by simp [hu])]
    have hstep : pixelAt (xorTouch acc t).1 r c =
        (pixelAt acc.1 r c ^^ (decide (t.row = r ∧ t.col = c) && t.bit)) := by
      rw [xorTouch]
      rw [pixelAt_setPixel h hr hc]
      by_cases he : r = t.row ∧ c = t.col
      · simp [he.1, he.2]
      · rw [if_neg he, decide_eq_false fun hh => he ⟨hh.1.symm, hh.2.symm⟩]
        simp
    rw [hstep, touchParity, Bool.xor_assoc]

/-- After a draw each pixel of the grid is toggled with the parity of the draw's pixels on it. -/
theorem pixelAt_drawTouches (h : fbShape cfg fb) {ts : List Touch}
    (hin : ∀ t ∈ ts, t.row < cfg.fbHeight ∧ t.col < cfg.fbWidth) {r c : Nat} (hr : r < cfg.fbHeight)
    (hc : c < cfg.fbWidth) :
    pixelAt (drawTouches fb ts).1 r c = (pixelAt fb r c ^^ touchParity r c ts) :=
  pixelAt_foldl h hin hr hc

/-- No two entries of the list land on one pixel. -/
abbrev touchesApart (ts : List Touch) : Prop :=
  ts.Pairwise fun t u => ¬ (t.row = u.row ∧ t.col = u.col)

theorem touchParity_eq_true {ts : List Touch} (h : touchesApart ts) {r c : Nat} :
    touchParity r c ts = true ↔ ∃ t ∈ ts, t.row = r ∧ t.col = c ∧ t.bit = true := by
  induction ts with
  | nil => simp [touchParity]
  | cons t ts ih =>
    obtain ⟨hne, hts⟩ := List.pairwise_cons.mp h
    by_cases he : t.row = r ∧ t.col = c
    · have hrest : touchParity r c ts = false := by
        rw [Bool.eq_false_iff, ne_eq, ih hts]
        rintro ⟨u, hu, h1, h2, -⟩
        exact hne u hu ⟨he.1.trans h1.symm, he.2.trans h2.symm⟩
      simp only [touchParity, hrest, he, and_self, decide_true, Bool.true_and, Bool.xor_false]
      constructor
      · exact fun hb => ⟨t, by simp, he.1, he.2, hb⟩
      · rintro ⟨u, hu, h1, h2, hb⟩
        rcases List.mem_cons.mp hu with rfl | hu
        · exact hb
        · exact absurd ⟨he.1.trans h1.symm, he.2.trans h2.symm⟩ (hne u hu)
    · rw [touchParity, decide_eq_false he, Bool.false_and, Bool.false_xor, ih hts]
      constructor
      · rintro ⟨u, hu, hh⟩; exact ⟨u, by simp [hu], hh⟩
      · rintro ⟨u, hu, h1, h2, hb⟩
        rcases List.mem_cons.mp hu with rfl | hu
        · exact absurd ⟨h1, h2⟩ he
        · exact ⟨u, hu, h1, h2, hb⟩

theorem collision_foldl {acc : Framebuffer × Bool} (h : fbShape cfg acc.1) {ts : List Touch}
    (hin : ∀ t ∈ ts, t.row < cfg.fbHeight ∧ t.col < cfg.fbWidth) (hap : touchesApart ts) :
    (ts.foldl xorTouch acc).2 = true ↔
      acc.2 = true ∨ ∃ t ∈ ts, pixelAt acc.1 t.row t.col = true ∧ t.bit = true := by
  induction ts generalizing acc with
  | nil => simp
  | cons t ts ih =>
    obtain ⟨hne, hts⟩ := List.pairwise_cons.mp hap
    have hsame : ∀ u ∈ ts, pixelAt (xorTouch acc t).1 u.row u.col = pixelAt acc.1 u.row u.col := by
      intro u hu
      obtain ⟨hur, huc⟩ := hin u (by simp [hu])
      rw [xorTouch, pixelAt_setPixel h hur huc,
        if_neg fun hh => hne u hu ⟨hh.1.symm, hh.2.symm⟩]
    rw [List.foldl_cons, ih (fbShape_xorTouch h t) (fun u hu => hin u (by simp [hu])) hts]
    have h2 : (xorTouch acc t).2 = (acc.2 || (pixelAt acc.1 t.row t.col && t.bit)) := rfl
    rw [h2]
    constructor
    · rintro (hh | ⟨u, hu, hp, hb⟩)
      · rcases Bool.or_eq_true _ _ ▸ hh with hh | hh
        · exact .inl hh
        · exact .inr ⟨t, by simp, (Bool.and_eq_true _ _ ▸ hh).1, (Bool.and_eq_true _ _ ▸ hh).2⟩
      · exact .inr ⟨u, by simp [hu], by rwa [hsame u hu] at hp, hb⟩
    · rintro (hh | ⟨u, hu, hp, hb⟩)
      · exact .inl (by simp [hh])
      · rcases List.mem_cons.mp hu with rfl | hu
        · exact .inl (by simp [hp, hb])
        · exact .inr ⟨u, hu, by rwa [hsame u hu], hb⟩

/-- The collision of a draw that touches no pixel twice: one of its set bits lies on a set pixel. -/
theorem collision_drawTouches (h : fbShape cfg fb) {ts : List Touch}
    (hin : ∀ t ∈ ts, t.row < cfg.fbHeight ∧ t.col < cfg.fbWidth) (hap : touchesApart ts) :
    (drawTouches fb ts).2 = true ↔ ∃ t ∈ ts, pixelAt fb t.row t.col = true ∧ t.bit = true := by
  simpa [drawTouches] using collision_foldl (acc := (fb, false)) h hin hap

/-! ## The pixels of a sprite -/

theorem mem_rowTouches {vx vy r : Nat} {b : Byte} {t : Touch} :
    t ∈ rowTouches cfg vx vy r b ↔
      ∃ c < 8, t = { row := (vy + r) % cfg.fbHeight, col := (vx + c) % cfg.fbWidth,
                     bit := b.getLsbD (7 - c) } := by
  simp [rowTouches, eq_comm]

theorem mem_spriteTouches {vx vy r : Nat} {bs : List Byte} {t : Touch} :
    t ∈ spriteTouches cfg vx vy r bs ↔
      ∃ k < bs.length, ∃ c < 8,
        t = { row := (vy + (r + k)) % cfg.fbHeight, col := (vx + c) % cfg.fbWidth,
              bit := (bs.getD k 0).getLsbD (7 - c) } := by
  induction bs generalizing r with
  | nil => simp [spriteTouches]
  | cons b bs ih =>
    rw [spriteTouches, List.mem_append, mem_rowTouches, ih]
    constructor
    · rintro (⟨c, hc, rfl⟩ | ⟨k, hk, c, hc, rfl⟩)
      · exact ⟨0, by simp, c, hc, by simp⟩
      · exact ⟨k + 1, by simp [hk], c, hc, by simp [Nat.add_assoc, Nat.add_comm 1 k]⟩
    · rintro ⟨k, hk, c, hc, rfl⟩
      cases k with
      | zero => exact .inl ⟨c, hc, by simp⟩
      | succ k =>
        exact .inr ⟨k, by simpa using hk, c, hc, by simp [Nat.add_assoc, Nat.add_comm 1 k]⟩

/-- The pixels of a sprite lie on the grid. -/
theorem spriteTouches_inside {vx vy r : Nat} {bs : List Byte} (hh : 0 < cfg.fbHeight)
    (hw : 0 < cfg.fbWidth) :
    ∀ t ∈ spriteTouches cfg vx vy r bs, t.row < cfg.fbHeight ∧ t.col < cfg.fbWidth := by
  intro t ht
  obtain ⟨k, -, c, -, rfl⟩ := mem_spriteTouches.mp ht
  exact ⟨Nat.mod_lt _ hh, Nat.mod_lt _ hw⟩

/-- Two offsets smaller than the modulus reduce to one value only when they are the same. -/
theorem offset_eq_of_mod_eq {a k l m : Nat} (hk : k < m) (hl : l < m)
    (h : (a + k) % m = (a + l) % m) : k = l :=
  Nat.ModEq.eq_of_lt_of_lt (Nat.ModEq.add_left_cancel' a h) hk hl

/-- With a grid at least as large as the sprite no pixel is touched twice (R94). -/
theorem spriteTouches_apart {vx vy r : Nat} {bs : List Byte} (hw : 8 ≤ cfg.fbWidth)
    (hh : r + bs.length ≤ cfg.fbHeight) : touchesApart (spriteTouches cfg vx vy r bs) := by
  induction bs generalizing r with
  | nil => simp [spriteTouches]
  | cons b bs ih =>
    simp only [List.length_cons] at hh
    refine List.pairwise_append.mpr ⟨?_, ih (by omega), ?_⟩
    · refine List.pairwise_map.mpr (List.pairwise_lt_range.imp_of_mem ?_)
      rintro c d hc hd hcd ⟨-, he⟩
      have := offset_eq_of_mod_eq (by have := List.mem_range.mp hc; omega)
        (by have := List.mem_range.mp hd; omega) he
      omega
    · rintro t ht u hu ⟨he, -⟩
      obtain ⟨c, -, rfl⟩ := mem_rowTouches.mp ht
      obtain ⟨k, hk, d, -, rfl⟩ := mem_spriteTouches.mp hu
      have := offset_eq_of_mod_eq (by omega) (by omega) he
      omega

/-- A pixel lies under a 1 bit of the sprite when the draw touches it with a set bit. -/
theorem State.spriteLights_iff {s : State} {x y : Reg} {n r c : Nat} :
    s.SpriteLights x y n r c ↔ ∃ t ∈ s.spriteAt x y n, t.row = r ∧ t.col = c ∧ t.bit = true := by
  simp only [State.spriteAt, mem_spriteTouches, State.SpriteLights, State.readBlock_length]
  constructor
  · rintro ⟨k, hk, j, hj, rfl, rfl, hb⟩
    refine ⟨_, ⟨k, hk, j, hj, rfl⟩, by simp, rfl, ?_⟩
    rwa [State.readBlock_getD hk]
  · rintro ⟨t, ⟨k, hk, j, hj, rfl⟩, rfl, rfl, hb⟩
    refine ⟨k, hk, j, hj, by simp, rfl, ?_⟩
    rwa [← State.readBlock_getD hk]

end Sys2Proof.Machine
end

