-- ==== Sys2Proof/Laws/PerInstr.lean ====
section
/-! SUPPORT. Per instruction: its encoding belongs to its own row of spec/opcode_table.json, "A word matches
a row when `(op AND mask) = match`" (spec/30_encoding.md, the opcode map). -/

namespace Sys2Proof.Laws.TableRow

/-- The word of `i` matches the mask and pattern of the row of `i`. -/
def Statement (i : Instr) : Prop := encode i &&& (opcodeRow i).mask = (opcodeRow i).pattern

theorem formatA_and (n1 : Nibble) (nnn : Addr12) : formatA n1 nnn &&& 0xF000#16 = formatA n1 0 := by
  change (n1 ++ nnn) &&& (0xF#4 ++ 0x000#12) = n1 ++ 0#12
  rw [BitVec.and_append]
  congr 1
  · exact BitVec.and_allOnes
  · exact BitVec.and_zero

theorem formatXK_and_family (n1 : Nibble) (x : Reg) (kk : Byte) :
    formatXK n1 x kk &&& 0xF000#16 = formatXK n1 0 0 := by
  change ((n1 ++ regBits x) ++ kk) &&& ((0xF#4 ++ 0x0#4) ++ 0x00#8) = (n1 ++ 0#4) ++ 0#8
  rw [BitVec.and_append, BitVec.and_append]
  congr 1
  · congr 1
    · exact BitVec.and_allOnes
    · exact BitVec.and_zero
  · exact BitVec.and_zero

theorem formatXK_and_low (n1 : Nibble) (x : Reg) (kk : Byte) :
    formatXK n1 x kk &&& 0xF0FF#16 = formatXK n1 0 kk := by
  change ((n1 ++ regBits x) ++ kk) &&& ((0xF#4 ++ 0x0#4) ++ 0xFF#8) = (n1 ++ 0#4) ++ kk
  rw [BitVec.and_append, BitVec.and_append]
  congr 1
  · congr 1
    · exact BitVec.and_allOnes
    · exact BitVec.and_zero
  · exact BitVec.and_allOnes

theorem formatXYN_and_family (n1 : Nibble) (x y : Reg) (n : Nibble) :
    formatXYN n1 x y n &&& 0xF000#16 = formatXYN n1 0 0 0 := by
  change ((n1 ++ regBits x) ++ (regBits y ++ n)) &&& ((0xF#4 ++ 0x0#4) ++ 0x00#8) =
    (n1 ++ 0#4) ++ 0x00#8
  rw [BitVec.and_append, BitVec.and_append]
  congr 1
  · congr 1
    · exact BitVec.and_allOnes
    · exact BitVec.and_zero
  · exact BitVec.and_zero

theorem formatXYN_and_low (n1 : Nibble) (x y : Reg) (n : Nibble) :
    formatXYN n1 x y n &&& 0xF00F#16 = formatXYN n1 0 0 n := by
  change ((n1 ++ regBits x) ++ (regBits y ++ n)) &&& ((0xF#4 ++ 0x0#4) ++ (0x0#4 ++ 0xF#4)) =
    (n1 ++ 0#4) ++ (0#4 ++ n)
  rw [BitVec.and_append, BitVec.and_append, BitVec.and_append]
  congr 1
  · congr 1
    · exact BitVec.and_allOnes
    · exact BitVec.and_zero
  · congr 1
    · exact BitVec.and_zero
    · exact BitVec.and_allOnes

theorem cls : Statement .cls :=
  by unfold Statement; decide

theorem ret : Statement .ret :=
  by unfold Statement; decide

theorem jp (nnn : Addr12) : Statement (.jp nnn) :=
  (formatA_and _ nnn).trans rfl

theorem call (nnn : Addr12) : Statement (.call nnn) :=
  (formatA_and _ nnn).trans rfl

theorem seImm (x : Reg) (kk : Byte) : Statement (.seImm x kk) :=
  (formatXK_and_family _ x kk).trans rfl

theorem sneImm (x : Reg) (kk : Byte) : Statement (.sneImm x kk) :=
  (formatXK_and_family _ x kk).trans rfl

theorem seReg (x y : Reg) (z : Nibble) : Statement (.seReg x y z) :=
  (formatXYN_and_family _ x y _).trans rfl

theorem ldImm (x : Reg) (kk : Byte) : Statement (.ldImm x kk) :=
  (formatXK_and_family _ x kk).trans rfl

theorem addImm (x : Reg) (kk : Byte) : Statement (.addImm x kk) :=
  (formatXK_and_family _ x kk).trans rfl

theorem ldReg (x y : Reg) : Statement (.ldReg x y) :=
  (formatXYN_and_low _ x y _).trans rfl

theorem orReg (x y : Reg) : Statement (.orReg x y) :=
  (formatXYN_and_low _ x y _).trans rfl

theorem andReg (x y : Reg) : Statement (.andReg x y) :=
  (formatXYN_and_low _ x y _).trans rfl

theorem xorReg (x y : Reg) : Statement (.xorReg x y) :=
  (formatXYN_and_low _ x y _).trans rfl

theorem addReg (x y : Reg) : Statement (.addReg x y) :=
  (formatXYN_and_low _ x y _).trans rfl

theorem subReg (x y : Reg) : Statement (.subReg x y) :=
  (formatXYN_and_low _ x y _).trans rfl

theorem shr (x y : Reg) : Statement (.shr x y) :=
  (formatXYN_and_low _ x y _).trans rfl

theorem subnReg (x y : Reg) : Statement (.subnReg x y) :=
  (formatXYN_and_low _ x y _).trans rfl

theorem shl (x y : Reg) : Statement (.shl x y) :=
  (formatXYN_and_low _ x y _).trans rfl

theorem sneReg (x y : Reg) (z : Nibble) : Statement (.sneReg x y z) :=
  (formatXYN_and_family _ x y _).trans rfl

theorem ldI (nnn : Addr12) : Statement (.ldI nnn) :=
  (formatA_and _ nnn).trans rfl

theorem jpV0 (nnn : Addr12) : Statement (.jpV0 nnn) :=
  (formatA_and _ nnn).trans rfl

theorem rnd (x : Reg) (kk : Byte) : Statement (.rnd x kk) :=
  (formatXK_and_family _ x kk).trans rfl

theorem drw (x y : Reg) (n : Nat) : Statement (.drw x y n) :=
  (formatXYN_and_family _ x y _).trans rfl

theorem skp (x : Reg) : Statement (.skp x) :=
  (formatXK_and_low _ x _).trans rfl

theorem sknp (x : Reg) : Statement (.sknp x) :=
  (formatXK_and_low _ x _).trans rfl

theorem ldVxDT (x : Reg) : Statement (.ldVxDT x) :=
  (formatXK_and_low _ x _).trans rfl

theorem ldVxK (x : Reg) : Statement (.ldVxK x) :=
  (formatXK_and_low _ x _).trans rfl

theorem ldDTVx (x : Reg) : Statement (.ldDTVx x) :=
  (formatXK_and_low _ x _).trans rfl

theorem ldSTVx (x : Reg) : Statement (.ldSTVx x) :=
  (formatXK_and_low _ x _).trans rfl

theorem addI (x : Reg) : Statement (.addI x) :=
  (formatXK_and_low _ x _).trans rfl

theorem ldF (x : Reg) : Statement (.ldF x) :=
  (formatXK_and_low _ x _).trans rfl

theorem ldB (x : Reg) : Statement (.ldB x) :=
  (formatXK_and_low _ x _).trans rfl

theorem storeRegs (x : Reg) : Statement (.storeRegs x) :=
  (formatXK_and_low _ x _).trans rfl

theorem loadRegs (x : Reg) : Statement (.loadRegs x) :=
  (formatXK_and_low _ x _).trans rfl

end Sys2Proof.Laws.TableRow
end

