-- ==== Sys2Proof/Laws/Step.lean ====
section
/-! SUPPORT. What one step can do, said once (spec/50_interfaces.md R108), and the step of each case. -/

namespace Sys2Proof.Machine

variable {s t : State}

theorem step_of_faulted (h : s.fault.cause ≠ .noFault) : step s = .next s.beginStep := by
  simp [step, stepSampled, State.faulted_iff.mpr h]

theorem not_faulted (h : s.fault.cause = .noFault) : s.faulted = false := by
  simp [State.faulted, h]

theorem step_of_fetch_fault (h : s.fault.cause = .noFault) (hpc : 4094 < s.pc.toNat) :
    step s = .next (s.beginStep.recordFault .fetchOutOfRange s.pc) := by
  have hc : s.canFetch = false := by simp [State.canFetch]; omega
  simp [step, stepSampled, not_faulted h, hc, raiseFault]

theorem step_of_instruction {i : Instr} (h : s.fault.cause = .noFault) (hpc : s.pc.toNat ≤ 4094)
    (hd : decodeWord s.fetchWord = some i) : step s = exec i s.beginStep := by
  have hc : s.canFetch = true := by simp [State.canFetch]; omega
  simp [step, stepSampled, not_faulted h, hc, hd]

theorem step_of_unrecognised (h : s.fault.cause = .noFault) (hpc : s.pc.toNat ≤ 4094)
    (hd : decodeWord s.fetchWord = none) :
    step s = .next (s.beginStep.skipUnrecognised s.fetchWord) := by
  have hc : s.canFetch = true := by simp [State.canFetch]; omega
  simp [step, stepSampled, not_faulted h, hc, hd]

/-- Everything a step can do. -/
theorem step_cases (h : step s = .next t) :
    (s.fault.cause ≠ .noFault ∧ t = s.beginStep) ∨
    (s.fault.cause = .noFault ∧ 4094 < s.pc.toNat ∧
      t = s.beginStep.recordFault .fetchOutOfRange s.pc) ∨
    (s.fault.cause = .noFault ∧ s.pc.toNat ≤ 4094 ∧ decodeWord s.fetchWord = none ∧
      t = s.beginStep.skipUnrecognised s.fetchWord) ∨
    ∃ i, s.fault.cause = .noFault ∧ s.pc.toNat ≤ 4094 ∧ decodeWord s.fetchWord = some i ∧
      exec i s.beginStep = .next t := by
  by_cases hf : s.fault.cause = .noFault
  · by_cases hpc : s.pc.toNat ≤ 4094
    · cases hd : decodeWord s.fetchWord with
      | none =>
        rw [step_of_unrecognised hf hpc hd] at h
        exact .inr (.inr (.inl ⟨hf, hpc, rfl, by simpa using h.symm⟩))
      | some i =>
        rw [step_of_instruction hf hpc hd] at h
        exact .inr (.inr (.inr ⟨i, hf, hpc, rfl, h⟩))
    · rw [step_of_fetch_fault hf (by omega)] at h
      exact .inr (.inl ⟨hf, by omega, by simpa using h.symm⟩)
  · rw [step_of_faulted hf] at h
    exact .inl ⟨hf, by simpa using h.symm⟩

end Sys2Proof.Machine
end

