-- ==== Sys2Proof/Machine/Ports.lean ====
section
/-! DEFINITION. The pins of the illustrative port list (spec/50_interfaces.md R119) as functions of the
state between two steps. The list's clock and its `step_req` / `step_done` handshake are timing, which
the spec does not fix (R147; log 15); `rst` is `State.hostReset`, `dirty_ack` is `State.ackDirty`, and
`keys`, `now`, `rnd` are the `StepInput` of a step. -/

namespace Sys2Proof.Machine

/-- The output pins of R119, all but the framebuffer's read port. -/
structure OutputPins where
  dirty : Bool
  fbWritten : Bool
  st : Byte
  unrecValid : Bool
  unrecPc : Word
  unrecWord : Word
  faultCause : BitVec 3
  faultPc : Word
  faultInfo : Word
  faultRaised : Bool
deriving DecidableEq, Repr

/-- The output pins as they stand; `unrec_pc` and `unrec_word` carry nothing, 0 here, while
`unrec_valid` is 0 (log 15). -/
def State.pins (s : State) : OutputPins where
  dirty := s.dirty
  fbWritten := s.out.fbWritten
  st := s.st
  unrecValid := s.out.unrec.isSome
  unrecPc := (s.out.unrec.getD (0, 0)).1
  unrecWord := (s.out.unrec.getD (0, 0)).2
  faultCause := s.fault.cause.code
  faultPc := s.fault.pc
  faultInfo := s.fault.info
  faultRaised := s.out.faultRaised

/-- `fb_rdata` for `fb_raddr_row`, `fb_raddr_col` (R114, R119). -/
def State.fbRead (s : State) (row col : Nat) : Bool := pixelAt s.fb row col

/-- One byte through the load port: "writes are confined to 0x200 to 0xFFF" (R119). -/
def State.loadPort (s : State) (addr : Addr12) (data : Byte) : State :=
  if romBase ≤ addr.toNat then s.setMem (s.memWith addr.toNat [data]) else s

/-- `ld_len_err`: the length check before the first byte (R110, R119). -/
def loadLengthError (len : Nat) : Bool := decide (romMax < len)

end Sys2Proof.Machine
end

