-- ==== Sys2Proof/Tests/Slice0.lean ====
section
/-! SUPPORT. Small tests, each on one step or one word, with the expected result taken from
spec/95_test_vectors.md (the vector is named) or from the encoding of spec/opcode_table.json, and the
witnesses that the hypotheses of the obligations can be met. -/

open Sys2Proof Sys2Proof.Machine

namespace Sys2Proof.Tests

-- One theorem at a time: many kernel evaluations at once need more threads than the checker allows.
set_option Elab.async false

/-! ## Helpers -/

/-- The smallest legal framebuffer, the other parameters at their defaults. -/
def smallConfig : Config := { defaultConfig with fbWidth := 8, fbHeight := 15 }

/-- Inputs with nothing pressed, at time 0. -/
def noInput : StepInput := { keys := 0, now := 0, rnd := 0 }

/-- A machine after reset with one word at its entry point and the inputs of its next step. -/
def prog (op : Word) (inp : StepInput := noInput) : State :=
  { (State.resetWith smallConfig 0).placeWord op with pending := [inp] }

/-- The same with the default framebuffer. -/
def progWide (op : Word) : State :=
  { (State.resetWith defaultConfig 0).placeWord op with pending := [noInput] }

def withRegs (s : State) (l : List (Reg × Byte)) : State :=
  l.foldl (fun u p => u.setReg p.1 p.2) s

def withBytes (s : State) (a : Nat) (bytes : List Byte) : State := s.setMem (s.memWith a bytes)

def withI (s : State) (a : Word) : State := { s with i := a }

/-- What a function of the state says after one step. -/
def after {α : Type} (s : State) (f : State → α) : Option α :=
  match step s with
  | .next t => some (f t)
  | .fault _ => none
  | .refused _ => none

/-- The fault record as the vectors write it: code, pc, info. -/
def faultOf (t : State) : BitVec 3 × Word × Word := (t.fault.cause.code, t.fault.pc, t.fault.info)

/-- The set pixels as pairs (row, column). -/
def litPixels (t : State) : List (Nat × Nat) :=
  (List.range t.cfg.fbHeight).flatMap fun r =>
    (List.range t.cfg.fbWidth).filterMap fun c => if pixelAt t.fb r c then some (r, c) else none

/-! ## Well-formedness -/

theorem test_wf_refuses_row_count_sixteen : Instr.wellFormed (.drw 0 0 16) = false := by decide

theorem test_wf_accepts_row_counts : Instr.wellFormed (.drw 0 0 0) = true ∧
    Instr.wellFormed (.drw 15 15 15) = true := by decide

/-! ## Decoding: one word a constructor, its bits as spec/opcode_table.json prints them -/

theorem test_decode_control_flow :
    decodeTableWord 16 0b0000000011100000 = some .cls ∧
    decodeTableWord 16 0b0000000011101110 = some .ret ∧
    decodeTableWord 16 0b0001101010111100 = some (.jp 0xABC) ∧
    decodeTableWord 16 0b0010001100000001 = some (.call 0x301) ∧
    decodeTableWord 16 0b1011111111111110 = some (.jpV0 0xFFE) := by decide

theorem test_decode_skips :
    decodeTableWord 16 0b0011101001000010 = some (.seImm 10 0x42) ∧
    decodeTableWord 16 0b0100111110000001 = some (.sneImm 15 0x81) ∧
    decodeTableWord 16 0b0101000100100000 = some (.seReg 1 2 0) ∧
    decodeTableWord 16 0b0101001100110111 = some (.seReg 3 3 7) ∧
    decodeTableWord 16 0b1001010010001111 = some (.sneReg 4 8 15) ∧
    decodeTableWord 16 0b1110001110011110 = some (.skp 3) ∧
    decodeTableWord 16 0b1110110010100001 = some (.sknp 12) := by decide

theorem test_decode_arithmetic :
    decodeTableWord 16 0b0110111100000111 = some (.ldImm 15 0x07) ∧
    decodeTableWord 16 0b0111000011111111 = some (.addImm 0 0xFF) ∧
    decodeTableWord 16 0b1000000100100000 = some (.ldReg 1 2) ∧
    decodeTableWord 16 0b1000001000010001 = some (.orReg 2 1) ∧
    decodeTableWord 16 0b1000001101000010 = some (.andReg 3 4) ∧
    decodeTableWord 16 0b1000010000110011 = some (.xorReg 4 3) ∧
    decodeTableWord 16 0b1000010101100100 = some (.addReg 5 6) ∧
    decodeTableWord 16 0b1000011001010101 = some (.subReg 6 5) ∧
    decodeTableWord 16 0b1000011110000110 = some (.shr 7 8) ∧
    decodeTableWord 16 0b1000100001110111 = some (.subnReg 8 7) ∧
    decodeTableWord 16 0b1000100110101110 = some (.shl 9 10) ∧
    decodeTableWord 16 0b1100101000001111 = some (.rnd 10 0x0F) := by decide

theorem test_decode_address_and_display :
    decodeTableWord 16 0b1010111111111111 = some (.ldI 0xFFF) ∧
    decodeTableWord 16 0b1111001000011110 = some (.addI 2) ∧
    decodeTableWord 16 0b1111001100101001 = some (.ldF 3) ∧
    decodeTableWord 16 0b1111010000110011 = some (.ldB 4) ∧
    decodeTableWord 16 0b1111111101010101 = some (.storeRegs 15) ∧
    decodeTableWord 16 0b1111001001100101 = some (.loadRegs 2) ∧
    decodeTableWord 16 0b1101000100101111 = some (.drw 1 2 15) := by decide

theorem test_decode_timers_and_key_wait :
    decodeTableWord 16 0b1111111100000111 = some (.ldVxDT 15) ∧
    decodeTableWord 16 0b1111010100001010 = some (.ldVxK 5) ∧
    decodeTableWord 16 0b1111010100010101 = some (.ldDTVx 5) ∧
    decodeTableWord 16 0b1111000100011000 = some (.ldSTVx 1) := by decide

/-- The unrecognised words of spec/95_test_vectors.md 2.8. -/
theorem test_decode_unrecognised :
    ([0x0000, 0x00E1, 0x0123, 0x0FFF, 0x8008, 0x812F, 0xE000, 0xE09F, 0xE19D, 0xF000, 0xF145,
      0xFFFF] : List Word).all (fun op => (decodeWord op).isNone) = true := by decide +kernel

theorem test_decode_truncated : decode [0x12] = .error .truncated ∧ decode [] = .error .truncated := by
  decide

/-- A word encoded by hand from the layouts: `DRW V1, V2, 3` is D1 23, high byte first. -/
theorem test_encode_bytes : encodeBytes (.drw 1 2 3) = [0xD1, 0x23] ∧
    encodeBytes (.jp 0x200) = [0x12, 0x00] ∧ encodeBytes (.seReg 3 3 7) = [0x53, 0x37] := by decide

/-! ## Control flow (CF) -/

/-- CF1. -/
theorem test_jp : after (prog 0x1ABC) State.pc = some 0x0ABC := by decide +kernel

/-- CF4. -/
theorem test_jpV0 : after (withRegs (prog 0xB300) [(0, 0x04)]) State.pc = some 0x0304 := by
  decide +kernel

/-- CF5: not reduced to 12 bits. -/
theorem test_jpV0_wide : after (withRegs (prog 0xBFFF) [(0, 0xFF)]) State.pc = some 0x10FE := by
  decide +kernel

/-- CF7. -/
theorem test_call : after { prog 0x2ABC with sp := 15 } (fun t => (t.stack[15], t.sp, t.pc)) =
    some (0x0202, 16, 0x0ABC) := by decide +kernel

/-- CF8. -/
theorem test_call_overflow : after { prog 0x2ABC with sp := 16 } (fun t => (faultOf t, t.sp, t.pc)) =
    some ((1, 0x0200, 0x0ABC), 16, 0x0200) := by decide +kernel

/-- CF9. -/
theorem test_ret :
    after { prog 0x00EE with sp := 2, stack := ((Vector.replicate 16 0).set 0 0x0300).set 1 0x0ABC }
      (fun t => (t.sp, t.pc, t.stack[1])) = some (1, 0x0ABC, 0x0ABC) := by decide +kernel

/-- CF10. -/
theorem test_ret_underflow : after (prog 0x00EE) (fun t => (faultOf t, t.pc)) =
    some ((2, 0x0200, 0), 0x0200) := by decide +kernel

/-! ## Skips (K) -/

/-- K1, K2. -/
theorem test_seImm : after (withRegs (prog 0x3A42) [(10, 0x42)]) State.pc = some 0x204 ∧
    after (withRegs (prog 0x3A42) [(10, 0x43)]) State.pc = some 0x202 := by decide +kernel

/-- K3, K4. -/
theorem test_sneImm : after (withRegs (prog 0x4A42) [(10, 0x42)]) State.pc = some 0x202 ∧
    after (withRegs (prog 0x4A42) [(10, 0x43)]) State.pc = some 0x204 := by decide +kernel

/-- K5, K7: the low nibble is ignored and nothing is reported. -/
theorem test_seReg : after (withRegs (prog 0x5120) [(1, 7), (2, 7)]) State.pc = some 0x204 ∧
    after (withRegs (prog 0x5337) [(3, 9)]) (fun t => (t.pc, t.out.unrec)) = some (0x204, none) := by
  decide +kernel

/-- K9, K11. -/
theorem test_sneReg : after (withRegs (prog 0x9120) [(1, 7), (2, 8)]) State.pc = some 0x204 ∧
    after (withRegs (prog 0x944F) [(4, 1)]) State.pc = some 0x202 := by decide +kernel

/-- K14, K15. -/
theorem test_skp :
    after (withRegs (prog 0xE39E { keys := 0x0008, now := 0, rnd := 0 }) [(3, 3)]) State.pc =
      some 0x204 ∧
    after (withRegs (prog 0xE39E { keys := 0x0007, now := 0, rnd := 0 }) [(3, 3)]) State.pc =
      some 0x202 := by decide +kernel

/-- K19. -/
theorem test_skp_index :
    after (withRegs (prog 0xE39E { keys := 0xFFFF, now := 0, rnd := 0 }) [(3, 0x10)])
      (fun t => (faultOf t, t.pc)) = some ((5, 0x0200, 0x0010), 0x200) := by decide +kernel

/-- K16, K17. -/
theorem test_sknp :
    after (withRegs (prog 0xE3A1 { keys := 0x0008, now := 0, rnd := 0 }) [(3, 3)]) State.pc =
      some 0x202 ∧
    after (withRegs (prog 0xE3A1) [(3, 3)]) State.pc = some 0x204 := by decide +kernel

/-- K20. -/
theorem test_sknp_index : after (withRegs (prog 0xE3A1) [(3, 0xFF)]) faultOf =
    some (5, 0x0200, 0x00FF) := by decide +kernel

/-! ## Arithmetic (A) -/

/-- A1. -/
theorem test_ldImm : after (prog 0x6AFF) (fun t => (t.v[10], t.v[15], t.pc)) =
    some (0xFF, 0, 0x202) := by decide +kernel

/-- A3. -/
theorem test_ldReg : after (withRegs (prog 0x8120) [(1, 0x01), (2, 0x99), (15, 0x01)])
    (fun t => (t.v[1], t.v[2], t.v[15])) = some (0x99, 0x99, 0x01) := by decide +kernel

/-- A5, A6: no carry out, the flag untouched. -/
theorem test_addImm :
    after (withRegs (prog 0x7001) [(0, 0xFF)]) (fun t => (t.v[0], t.v[15])) = some (0, 0) ∧
    after (withRegs (prog 0x70FF) [(0, 0x01), (15, 0x01)]) (fun t => (t.v[0], t.v[15])) =
      some (0, 1) := by decide +kernel

/-- A9, A13. -/
theorem test_orReg :
    after (withRegs (prog 0x8121) [(1, 0xF0), (2, 0x0F), (15, 1)]) (fun t => (t.v[1], t.v[15])) =
      some (0xFF, 1) ∧
    after (withRegs (prog 0x8F21) [(15, 0x81), (2, 0x18)]) (fun t => t.v[15]) = some 0x99 := by
  decide +kernel

/-- A10. -/
theorem test_andReg : after (withRegs (prog 0x8122) [(1, 0xF0), (2, 0x3C), (15, 1)])
    (fun t => (t.v[1], t.v[15])) = some (0x30, 1) := by decide +kernel

/-- A11. -/
theorem test_xorReg : after (withRegs (prog 0x8123) [(1, 0xF0), (2, 0x3C), (15, 1)])
    (fun t => (t.v[1], t.v[15])) = some (0xCC, 1) := by decide +kernel

/-- A14, A15: 255 is not a carry. -/
theorem test_addReg :
    after (withRegs (prog 0x8124) [(1, 0xFF), (2, 0x01)]) (fun t => (t.v[1], t.v[15])) = some (0, 1) ∧
    after (withRegs (prog 0x8124) [(1, 0x7F), (2, 0x80), (15, 1)]) (fun t => (t.v[1], t.v[15])) =
      some (0xFF, 0) := by decide +kernel

/-- A17, A19: the flag as destination and as operand. -/
theorem test_addReg_flag :
    after (withRegs (prog 0x8F14) [(15, 0xF0), (1, 0x20)]) (fun t => t.v[15]) = some 1 ∧
    after (withRegs (prog 0x81F4) [(1, 0xFF), (15, 1)]) (fun t => (t.v[1], t.v[15])) = some (0, 1) := by
  decide +kernel

/-- A21, A22. -/
theorem test_subReg :
    after (withRegs (prog 0x8125) [(1, 5), (2, 5)]) (fun t => (t.v[1], t.v[15])) = some (0, 1) ∧
    after (withRegs (prog 0x8125) [(1, 3), (2, 5), (15, 1)]) (fun t => (t.v[1], t.v[15])) =
      some (0xFE, 0) := by decide +kernel

/-- A26. -/
theorem test_subReg_flag : after (withRegs (prog 0x8F15) [(15, 3), (1, 5)]) (fun t => t.v[15]) =
    some 0 := by decide +kernel

/-- A28, A29. -/
theorem test_subnReg :
    after (withRegs (prog 0x8127) [(1, 3), (2, 5)]) (fun t => (t.v[1], t.v[15])) = some (2, 1) ∧
    after (withRegs (prog 0x8127) [(1, 5), (2, 3)]) (fun t => (t.v[1], t.v[15])) = some (0xFE, 0) := by
  decide +kernel

/-- A31. -/
theorem test_subnReg_flag : after (withRegs (prog 0x8F17) [(15, 9), (1, 5)]) (fun t => t.v[15]) =
    some 0 := by decide +kernel

/-- A32, A33: the `y` field has no effect. -/
theorem test_shr :
    after (withRegs (prog 0x8126) [(1, 0x01), (2, 0xEE)]) (fun t => (t.v[1], t.v[2], t.v[15])) =
      some (0, 0xEE, 1) ∧
    after (withRegs (prog 0x8126) [(1, 0xFE), (15, 1)]) (fun t => (t.v[1], t.v[15])) =
      some (0x7F, 0) := by decide +kernel

/-- A35. -/
theorem test_shr_flag : after (withRegs (prog 0x8F26) [(15, 3)]) (fun t => t.v[15]) = some 1 := by
  decide +kernel

/-- A37, A38. -/
theorem test_shl :
    after (withRegs (prog 0x812E) [(1, 0x80), (2, 0xEE)]) (fun t => (t.v[1], t.v[2], t.v[15])) =
      some (0, 0xEE, 1) ∧
    after (withRegs (prog 0x812E) [(1, 0x7F), (15, 1)]) (fun t => (t.v[1], t.v[15])) =
      some (0xFE, 0) := by decide +kernel

/-- A41. -/
theorem test_shl_flag : after (withRegs (prog 0x8F2E) [(15, 0x41)]) (fun t => t.v[15]) = some 0 := by
  decide +kernel

/-- A42. -/
theorem test_rnd : after (withRegs (prog 0xC30F { keys := 0, now := 0, rnd := 0xA5 }) [(3, 0xEE)])
    (fun t => (t.v[3], t.v[15])) = some (0x05, 0) := by decide +kernel

/-! ## Address register and memory (M) -/

/-- M1. -/
theorem test_ldI : after (prog 0xAFFF) (fun t => (t.i, t.pc)) = some (0x0FFF, 0x202) := by
  decide +kernel

/-- M2, M3. -/
theorem test_addI :
    after (withI (withRegs (prog 0xF21E) [(2, 1), (15, 7)]) 0x0FFF) (fun t => (t.i, t.v[15])) =
      some (0x1000, 7) ∧
    after (withI (withRegs (prog 0xF21E) [(2, 2)]) 0xFFFF) (fun t => (t.i, t.v[15])) =
      some (0x0001, 0) := by decide +kernel

/-- M5, M7: no masking. -/
theorem test_ldF : after (withRegs (prog 0xF329) [(3, 0x0A)]) State.i = some 0x0032 ∧
    after (withRegs (prog 0xF329) [(3, 0xFF)]) State.i = some 0x04FB := by decide +kernel

/-- M8, M14. -/
theorem test_ldB :
    after (withI (withRegs (prog 0xF433) [(4, 0xFF)]) 0x300)
      (fun t => (t.readBlock 0x300 4, t.i, t.v[4])) = some ([2, 5, 5, 0], 0x300, 0xFF) ∧
    after (withI (withRegs (prog 0xF433) [(4, 0x7B)]) 0x0FFD) (fun t => t.readBlock 0xFFD 3) =
      some [1, 2, 3] := by decide +kernel

/-- M15, M16. -/
theorem test_ldB_fault :
    after (withI (withRegs (prog 0xF433) [(4, 0x7B)]) 0x0FFE)
      (fun t => (faultOf t, t.readBlock 0xFFE 2)) = some ((4, 0x0200, 0x1000), [0, 0]) ∧
    after (withI (withRegs (prog 0xF433) [(4, 0x7B)]) 0xFFFF) faultOf = some (4, 0x0200, 0x0001) := by
  decide +kernel

/-- Registers `0x10 + k`. -/
def countedRegs (s : State) : State :=
  { s with v := Vector.ofFn fun k => 0x10 + BitVec.ofNat 8 k.val }

/-- M17. -/
theorem test_storeRegs : after (withI (countedRegs (prog 0xF355)) 0x400)
    (fun t => (t.readBlock 0x3FF 6, t.i)) = some ([0, 0x10, 0x11, 0x12, 0x13, 0], 0x400) := by
  decide +kernel

/-- M20. -/
theorem test_storeRegs_fault : after (withI (countedRegs (prog 0xFF55)) 0x0FF1)
    (fun t => (faultOf t, t.readBlock 0xFF1 15)) =
      some ((4, 0x0200, 0x1000), List.replicate 15 0) := by decide +kernel

/-- M22. -/
theorem test_loadRegs :
    after (withI (countedRegs (withBytes (prog 0xF265) 0x500 [0xA0, 0xA1, 0xA2, 0xA3])) 0x500)
      (fun t => (t.v[0], t.v[1], t.v[2], t.v[3])) = some (0xA0, 0xA1, 0xA2, 0x13) := by decide +kernel

/-- M25. -/
theorem test_loadRegs_fault : after (withI (countedRegs (prog 0xF165)) 0x0FFF)
    (fun t => (faultOf t, t.v[0], t.v[1])) = some ((4, 0x0200, 0x1000), 0x10, 0x11) := by
  decide +kernel

/-! ## Display (DR), on the default 64 × 32 grid -/

/-- DR1. -/
theorem test_drw_wraps :
    after (withI (withBytes (withRegs (progWide 0xD121) [(1, 0x3F), (2, 0x1F)]) 0x300 [0xFF]) 0x300)
      (fun t => (litPixels t, t.v[15], t.dirty)) =
      some ([(31, 0), (31, 1), (31, 2), (31, 3), (31, 4), (31, 5), (31, 6), (31, 63)], 0, true) := by
  decide +kernel

/-- DR5. -/
theorem test_drw_collision :
    after
      { withI (withBytes (progWide 0xD121) 0x300 [0xC0]) 0x300 with
        fb := setPixel (List.replicate 32 (List.replicate 64 false)) 0 0 true, dirty := false }
      (fun t => (litPixels t, t.v[15], t.dirty)) = some ([(0, 1)], 1, true) := by decide +kernel

/-- DR15. -/
theorem test_cls :
    after
      { progWide 0x00E0 with
        fb := setPixel (List.replicate 32 (List.replicate 64 false)) 0 0 true, dirty := false }
      (fun t => (litPixels t, t.v[15], t.dirty, t.pc)) = some ([], 0, true, 0x202) := by decide +kernel

/-! ## Timers (T) and key wait (W) -/

/-- T3, T5, T11. -/
theorem test_delayLive : delayLive 255 0 15 = 254 ∧ delayLive 255 0 3825 = 0 ∧
    delayLive 10 1000 900 = 10 := by decide +kernel

/-- T20. -/
theorem test_ldVxDT :
    after { prog 0xFF07 { keys := 0, now := 45, rnd := 0 } with dtValue := 9 }
      (fun t => (t.v[15], t.dtValue, t.dtStart)) = some (6, 9, 0) := by decide +kernel

/-- T18. -/
theorem test_ldDTVx :
    after
      { withRegs (prog 0xF515 { keys := 0, now := 777, rnd := 0 }) [(5, 0x3C)] with
        dtValue := 7, dtStart := 5 }
      (fun t => (t.dtValue, t.dtStart, t.v[5])) = some (60, 777, 0x3C) := by decide +kernel

/-- T19. -/
theorem test_ldSTVx : after (withRegs (prog 0xF518) [(5, 0x3C)]) (fun t => (t.st, t.dtValue)) =
    some (0x3C, 0) := by decide +kernel

/-- W3, W4. -/
theorem test_ldVxK :
    after (withRegs (prog 0xF50A { keys := 0x0007, now := 0, rnd := 0 }) [(5, 0xEE)])
      (fun t => (t.v[5], t.pc)) = some (3, 0x202) ∧
    after (withRegs (prog 0xF50A { keys := 0x7FFF, now := 0, rnd := 0 }) [(5, 0xEE)])
      (fun t => (t.v[5], t.pc)) = some (15, 0x202) := by decide +kernel

/-- W7. -/
theorem test_ldVxK_stall :
    after (withRegs (prog 0xF50A { keys := 0xFFFF, now := 0, rnd := 0 }) [(5, 0xEE)])
      (fun t => (t.v[5], t.pc)) = some (0xEE, 0x200) := by decide +kernel

/-! ## Unrecognised words, fetch, load (2.8, F, L) -/

theorem test_unrecognised : after (prog 0x812F)
    (fun t => (t.out.unrec, t.pc, t.fault.cause)) = some (some (0x0200, 0x812F), 0x202, .noFault) := by
  decide +kernel

/-- F2, F3, F4. -/
theorem test_fetch :
    after { withBytes (prog 0x0000) 0xFFE [0x6A, 0x01] with pc := 0xFFE } (fun t => (t.v[10], t.pc)) =
      some (1, 0x1000) ∧
    after { prog 0x0000 with pc := 0xFFF } (fun t => (faultOf t, t.out.faultRaised)) =
      some ((3, 0x0FFF, 0x0FFF), true) ∧
    after { withBytes (prog 0x0000) 0x201 [0x60, 0x07] with pc := 0x201 } (fun t => (t.v[0], t.pc)) =
      some (7, 0x203) := by decide +kernel

/-- L4: only the bytes of the image change. -/
theorem test_loadROM :
    ((withBytes (prog 0x0000) 0x200 [1, 2, 3]).loadROM [8, 9]).2.readBlock 0x200 4 = [8, 9, 3, 0] := by
  decide +kernel

/-- The pins of R119 after a fault; the load port keeps out of the first 512 bytes. -/
theorem test_ports :
    after (prog 0x00EE) (fun t => (t.pins.faultCause, t.pins.faultPc, t.pins.faultRaised, t.pins.dirty)) =
      some (2, 0x0200, true, true) ∧
    ((prog 0x0000).loadPort 0x1FF 7).readByte 0x1FF = 0 ∧
    ((prog 0x0000).loadPort 0x200 7).readByte 0x200 = 7 := by decide +kernel

/-- The memory after reset holds the default font (R18) and nothing else. -/
theorem test_reset_font : State.reset.readBlock 0 5 = [0xF0, 0x90, 0x90, 0x90, 0xF0] ∧
    State.reset.readBlock 75 6 = [0xF0, 0x80, 0xF0, 0x80, 0x80, 0] := by decide +kernel

/-- `withFetchWord` puts the word where the next step fetches it. -/
theorem test_withFetchWord :
    after { State.reset.withFetchWord 16 0x6A42 with pending := [noInput] } (fun t => (t.v[10], t.pc)) =
      some (0x42, 0x202) := by decide +kernel

/-! ## Witnesses: the hypotheses of each obligation that has any, met together by concrete data -/

theorem loadRegs_answers {x : Reg} {s : State} (h : s.i.toNat + (x.val + 1) ≤ 4096) :
    exec (.loadRegs x) s =
      .next (s.setV (fillRegs s.v 0 (s.readBlock s.i.toNat (x.val + 1)))).advance :=
  checkBlock_of_inside (.inr h)

theorem storeRegs_answers {x : Reg} {s : State} (h : s.i.toNat + (x.val + 1) ≤ 4096) :
    exec (.storeRegs x) s =
      .next (s.setMem (s.memWith s.i.toNat (s.v.toList.take (x.val + 1)))).advance :=
  checkBlock_of_inside (.inr h)

theorem drw_answers {x y : Reg} {n : Nat} {s : State} (h : s.i.toNat + n ≤ 4096) :
    exec (.drw x y n) s =
      .next ((s.paint (drawTouches s.fb (s.spriteAt x y n)).1).setReg flagReg
        (flagByte (drawTouches s.fb (s.spriteAt x y n)).2)).advance :=
  checkBlock_of_inside (.inr h)

theorem witness_DecodeOfEncodeIsTheInstruction : Instr.wellFormed (.drw 15 15 15) = true := by decide

theorem witness_EncodeOfDecodeIsTheWord : decodeWord 0x5337 = some (.seReg 3 3 7) := by decide +kernel

theorem witness_StepSamplesItsInputsOnce :
    (prog 0x1200).pending = noInput :: [] ∧ State.reset.pending = [] ∧
      ∃ t, step (prog 0x1200) = .next t :=
  ⟨rfl, rfl, _, step_of_instruction (i := .jp 0x200) rfl (by decide +kernel) (by decide +kernel)⟩

theorem witness_StepSamplesItsInputsOnce_faulted :
    let s := { prog 0x00EE with fault := { cause := .stackUnderflow, pc := 0x200, info := 0 } }
    ∃ t, step s = .next t := ⟨_, step_of_faulted (by decide +kernel)⟩

/-- The last address a word is fetched from. -/
theorem witness_StepRunsTheDecodedInstruction :
    let s := { withBytes (prog 0) 0xFFE [0x6A, 0x01] with pc := 0xFFE }
    s.fault.cause = .noFault ∧ s.pc.toNat ≤ 4094 ∧
      decode [s.readByte s.pc.toNat, s.readByte (s.pc.toNat + 1)] = .ok (.ldImm 10 1, []) := by
  decide +kernel

theorem witness_UnrecognisedWordIsReportedAndSkipped :
    (prog 0x812F).fault.cause = .noFault ∧ (prog 0x812F).pc.toNat ≤ 4094 ∧
      decodeWord (prog 0x812F).fetchWord = none ∧
      ¬ ((prog 0x812F).cfg.sys0nnnRecognised = true ∧ (prog 0x812F).fetchWord.toNat / 4096 = 0) := by
  decide +kernel

/-- A machine with `SYS_0NNN_RECOGNISED` and the word 0123. -/
def sysProg : State :=
  { (State.resetWith { smallConfig with sys0nnnRecognised := true } 0).placeWord 0x0123 with
    pending := [noInput] }

theorem witness_RecognisedSysWordIsASilentNoop :
    sysProg.fault.cause = .noFault ∧ sysProg.pc.toNat ≤ 4094 ∧ decodeWord sysProg.fetchWord = none ∧
      sysProg.cfg.sys0nnnRecognised = true ∧ sysProg.fetchWord.toNat / 4096 = 0 := by decide +kernel

theorem witness_FetchOutOfRangeIsRecorded :
    let s := { prog 0 with pc := 4095 }
    s.fault.cause = .noFault ∧ 4094 < s.pc.toNat := by decide +kernel

/-- A faulted machine. -/
def faulted : State := { prog 0x00EE with fault := { cause := .stackUnderflow, pc := 0x200, info := 0 } }

theorem witness_FaultedCoreExecutesNothing : faulted.fault.cause ≠ .noFault := by decide +kernel

theorem witness_FaultsArePrecise :
    ∃ t, step (prog 0x00EE) = .next t ∧ (prog 0x00EE).fault.cause = .noFault ∧
      t.fault.cause ≠ .noFault :=
  ⟨_, (step_of_instruction (i := .ret) rfl (by decide +kernel) (by decide +kernel)).trans rfl, rfl,
    by decide +kernel⟩

theorem witness_FaultFreeConditionsAreExact :
    (prog 0).fault.cause = .noFault ∧ (∃ t, exec .ret (prog 0) = .next t) ∧
      ∃ t, exec (.jp 0x200) (prog 0) = .next t := ⟨rfl, ⟨_, rfl⟩, ⟨_, rfl⟩⟩

/-- A state that meets the invariant, with stored bytes, a full stack and `pc` at its greatest value. -/
def fullState : State :=
  { withBytes (prog 0) 0xFF0 [1, 2, 3] with
    pc := 0x10FE, stack := Vector.replicate 16 0x1000, sp := 16 }

theorem witness_StepKeepsTheInvariant : fullState.Inv ∧ ∃ t, step fullState = .next t :=
  ⟨⟨by decide +kernel, by decide +kernel, by decide +kernel, by decide +kernel⟩,
    _, step_of_fetch_fault rfl (by decide +kernel)⟩

/-- The jump to its own address. -/
theorem witness_OnlySelfJumpOrStallKeepsTheState_jp :
    ∃ t, step (prog 0x1200) = .next t ∧ (prog 0x1200).fault.cause = .noFault ∧
      (prog 0x1200).SameArch t :=
  ⟨_, (step_of_instruction (i := .jp 0x200) rfl (by decide +kernel) (by decide +kernel)).trans rfl, rfl,
    ⟨rfl, by decide +kernel, rfl, rfl, rfl, fun _ => rfl, rfl, rfl, rfl, rfl, rfl, rfl⟩⟩

/-- The jump through `V0` to its own address. -/
theorem witness_OnlySelfJumpOrStallKeepsTheState_jpV0 :
    ∃ t, step (prog 0xB200) = .next t ∧ (prog 0xB200).fault.cause = .noFault ∧
      (prog 0xB200).SameArch t :=
  ⟨_, (step_of_instruction (i := .jpV0 0x200) rfl (by decide +kernel) (by decide +kernel)).trans rfl, rfl,
    ⟨rfl, by decide +kernel, rfl, rfl, rfl, fun _ => rfl, rfl, rfl, rfl, rfl, rfl, rfl⟩⟩

/-- A key wait with every key pressed. -/
def stalled : State := prog 0xF50A { keys := 0xFFFF, now := 0, rnd := 0 }

theorem witness_OnlySelfJumpOrStallKeepsTheState_stall :
    ∃ t, step stalled = .next t ∧ stalled.fault.cause = .noFault ∧ stalled.SameArch t :=
  ⟨_, (step_of_instruction (i := .ldVxK 5) rfl (by decide +kernel) (by decide +kernel)).trans rfl, rfl,
    ⟨by decide +kernel, by decide +kernel, by decide +kernel, by decide +kernel, by decide +kernel,
      fun _ => rfl, by decide +kernel, by decide +kernel, by decide +kernel, by decide +kernel,
      by decide +kernel, by decide +kernel⟩⟩

theorem witness_OnlyDestinationRegistersChange :
    (∃ t, exec (.addReg 1 2) (prog 0) = .next t) ∧ ¬ writesReg (.addReg 1 2) 3 ∧
      (∃ t, exec (.loadRegs 14) (prog 0) = .next t) ∧ ¬ writesReg (.loadRegs 14) 15 :=
  ⟨⟨_, rfl⟩, by simp [writesReg], ⟨_, loadRegs_answers (by decide +kernel)⟩, by
    simp only [writesReg]; decide⟩

theorem witness_FlagIsZeroOrOne :
    (Instr.addReg 15 15) ∈ [Instr.addReg 15 15, .subReg 15 15, .subnReg 15 15, .shr 15 15, .shl 15 15,
      .drw 15 15 0] ∧ (prog 0).fault.cause = .noFault ∧
      ∃ t, exec (.addReg 15 15) (prog 0) = .next t ∧ t.fault.cause = .noFault :=
  ⟨by simp, rfl, _, rfl, rfl⟩

/-- `LD Vx, [I]` neither stores nor changes `I`, and is neither `CALL` nor `RET`. -/
theorem witness_OnlyStoresChangeMemory :
    (∃ t, exec (.loadRegs 2) (prog 0) = .next t) ∧ (∀ x, Instr.loadRegs 2 ≠ .ldB x) ∧
      ∀ x, Instr.loadRegs 2 ≠ .storeRegs x :=
  ⟨⟨_, loadRegs_answers (by decide +kernel)⟩, by simp, by simp⟩

theorem witness_OnlyAddressInstructionsChangeI :
    (∃ t, exec (.loadRegs 2) (prog 0) = .next t) ∧ (∀ n, Instr.loadRegs 2 ≠ .ldI n) ∧
      (∀ x, Instr.loadRegs 2 ≠ .addI x) ∧ ∀ x, Instr.loadRegs 2 ≠ .ldF x :=
  ⟨⟨_, loadRegs_answers (by decide +kernel)⟩, by simp, by simp, by simp⟩

theorem witness_OnlyCallAndReturnReachTheStack :
    (∃ t, exec (.loadRegs 2) (prog 0) = .next t) ∧ (∀ n, Instr.loadRegs 2 ≠ .call n) ∧
      Instr.loadRegs 2 ≠ .ret :=
  ⟨⟨_, loadRegs_answers (by decide +kernel)⟩, by simp, by simp⟩

theorem witness_OnlyLdDtChangesTheDelayTimer :
    (∃ t, step (prog 0xFF07) = .next t) ∧
      ∀ x, decodeWord (prog 0xFF07).fetchWord ≠ some (.ldDTVx x) :=
  ⟨⟨_, step_of_instruction (i := .ldVxDT 15) rfl (by decide +kernel) (by decide +kernel)⟩,
    by decide +kernel⟩

theorem witness_SoundTimerIsSetOnly :
    (∃ t, step (prog 0xF518) = .next t) ∧ ∃ t, exec (.ldSTVx 5) (prog 0) = .next t :=
  ⟨⟨_, step_of_instruction (i := .ldSTVx 5) rfl (by decide +kernel) (by decide +kernel)⟩, _, rfl⟩

theorem witness_FramebufferWritersSetDirty :
    (∃ t, step (prog 0x00E0) = .next t ∧ t.out.fbWritten = true) ∧
      ∃ t, step (prog 0x1200) = .next t ∧ t.out.fbWritten = false :=
  ⟨⟨_, (step_of_instruction (i := .cls) rfl (by decide +kernel) (by decide +kernel)).trans rfl, rfl⟩,
    _, (step_of_instruction (i := .jp 0x200) rfl (by decide +kernel) (by decide +kernel)).trans rfl, rfl⟩

theorem witness_InstructionsKeepParametersAndInputs : ∃ t, exec (.rnd 1 2) (prog 0) = .next t := ⟨_, rfl⟩

theorem witness_CallPushesTheReturnAddress : ({ prog 0 with sp := 15 } : State).sp.val < 16 := by
  decide +kernel

theorem witness_ReturnPopsTheStack :
    ({ prog 0 with sp := 16 } : State).sp.val = (15 : Fin 16).val + 1 ∧
      ({ prog 0 with sp := 1 } : State).sp.val = (0 : Fin 16).val + 1 := by decide +kernel

theorem witness_StackFaultsAreRecorded :
    ({ prog 0 with sp := 16 } : State).sp.val = 16 ∧ (prog 0).sp.val = 0 := by decide +kernel

theorem witness_CallThenReturnComesBack :
    let s : State := { prog 0 with sp := 15 }
    s.sp = (15 : Fin 16).castSucc ∧ ∃ t, exec (.call 0x300) s = .next t ∧ t.sp = t.sp ∧
      t.stack[15] = t.stack[15] :=
  ⟨by decide +kernel, _, rfl, rfl, rfl⟩

theorem witness_KeySkipsTestTheSampledSlot :
    (withRegs (prog 0) [(3, 15)]).v[(3 : Reg)].toNat ≤ 15 ∧ (prog 0).v[(3 : Reg)].toNat ≤ 15 := by
  decide +kernel

theorem witness_KeyIndexFaultIsRecorded :
    (Instr.skp 3) ∈ [Instr.skp 3, .sknp 3] ∧ (Instr.sknp 3) ∈ [Instr.skp 3, .sknp 3] ∧
      15 < (withRegs (prog 0) [(3, 16)]).v[(3 : Reg)].toNat := by decide +kernel

theorem witness_FlagAndResultHoldTheExactValue :
    (14 : Reg) ≠ 15 ∧ (∃ t, exec (.addReg 14 15) (prog 0) = .next t) ∧
      (∃ t, exec (.subReg 14 15) (prog 0) = .next t) ∧ (∃ t, exec (.subnReg 14 15) (prog 0) = .next t) ∧
      (∃ t, exec (.shr 14 15) (prog 0) = .next t) ∧ ∃ t, exec (.shl 14 15) (prog 0) = .next t :=
  ⟨by decide, ⟨_, rfl⟩, ⟨_, rfl⟩, ⟨_, rfl⟩, ⟨_, rfl⟩, _, rfl⟩

/-- Three bytes that end at the last address. -/
theorem witness_BcdStoresThreeDigits :
    Memory.wf (withI (prog 0) 0xFFD).cfg.fontTable (withI (prog 0) 0xFFD).mem ∧
      (withI (prog 0) 0xFFD).i.toNat + 2 ≤ 4095 := by decide +kernel

/-- A block that ends at the last address; the same for the bulk load. -/
theorem witness_BulkStoreWritesRegisters :
    Memory.wf (withI (prog 0) 0xFF0).cfg.fontTable (withI (prog 0) 0xFF0).mem ∧
      (withI (prog 0) 0xFF0).i.toNat + (15 : Reg).val ≤ 4095 := by decide +kernel

theorem witness_BulkLoadReadsRegisters : (withI (prog 0) 0xFF0).i.toNat + (15 : Reg).val ≤ 4095 ∧
    (withI (prog 0) 0xFFF).i.toNat + (0 : Reg).val ≤ 4095 := by decide +kernel

theorem witness_BulkLoadRestoresWhatBulkStoreWrote :
    let s := withI (prog 0) 0xFF0
    Memory.wf s.cfg.fontTable s.mem ∧ s.i.toNat + (15 : Reg).val ≤ 4095 ∧
      ∃ t, exec (.storeRegs 15) s = .next t ∧ t.i = s.i ∧ ∀ a, t.readByte a = t.readByte a :=
  ⟨by decide +kernel, by decide +kernel, _, storeRegs_answers (by decide +kernel), rfl, fun _ => rfl⟩

/-- The first block of each form that leaves memory. -/
theorem witness_BlockFaultsAreRecorded :
    ((Instr.ldB 3 = .ldB 3 ∧ 4096 = (withI (prog 0) 0xFFE).i.toNat + 2) ∧ 4095 < 4096) ∧
    (Instr.storeRegs 15 = .storeRegs 15 ∧ 4096 = (withI (prog 0) 0xFF1).i.toNat + (15 : Reg).val) ∧
    (Instr.loadRegs 15 = .loadRegs 15 ∧ 4096 = (withI (prog 0) 0xFF1).i.toNat + (15 : Reg).val) ∧
    (Instr.drw 1 2 1 = .drw 1 2 1 ∧ 1 ≤ 1 ∧ 4096 = (withI (prog 0) 0x1000).i.toNat + 1 - 1) := by
  decide +kernel

/-- The smallest legal grid, fifteen rows that end at the last address; and no row, `I` at its greatest. -/
theorem witness_DrawTogglesTheSpritesPixels :
    smallConfig.wf ∧ fbShape smallConfig (prog 0).fb ∧ 15 ≤ 15 ∧
      (withI (prog 0) 0xFF1).i.toNat + 15 - 1 ≤ 4095 ∧ (0 = 0 ∨ (withI (prog 0) 0xFFFF).i.toNat ≤ 4095) := by
  decide +kernel

theorem witness_DrawCompletesInsideMemory :
    15 = 0 ∨ (withI (prog 0) 0xFF1).i.toNat + 15 - 1 ≤ 4095 := by decide +kernel

theorem witness_DrawingTwiceRestoresTheFramebuffer :
    let s := withI (withBytes (prog 0) 0x300 [0xFF, 0x81]) 0x300
    fbShape s.cfg s.fb ∧ (2 = 0 ∨ s.i.toNat + 2 - 1 ≤ 4095) ∧ s.cfg.wf ∧ 2 ≤ 15 ∧
      ∃ t, exec (.drw 1 2 2) s = .next t ∧ t.cfg = s.cfg ∧ t.fb = t.fb ∧
        t.v[(1 : Reg)] = s.v[(1 : Reg)] ∧ t.v[(2 : Reg)] = s.v[(2 : Reg)] ∧ t.i = s.i ∧
        (∀ a, t.readByte a = s.readByte a) ∧ ∃ w, exec (.drw 1 2 2) t = .next w :=
  ⟨by decide +kernel, by decide +kernel, by decide +kernel, by decide, _,
    drw_answers (by decide +kernel), rfl, rfl, by decide +kernel, by decide +kernel, rfl,
    fun _ => rfl, _, drw_answers (by decide +kernel)⟩

/-- A timer set to 2 at 100, read at 115 (one tick) and at 130 (two ticks). -/
theorem witness_DelayTimerDecaysByWallClock :
    let s := withRegs { prog 0 with input := { keys := 0, now := 100, rnd := 0 } } [(5, 2)]
    ∃ t, exec (.ldDTVx 5) s = .next t ∧
      let u : State := { t with input := { keys := 0, now := 115, rnd := 0 } }
      let u' : State := { t with input := { keys := 0, now := 130, rnd := 0 } }
      u.dtValue = t.dtValue ∧ u.dtStart = t.dtStart ∧ (∃ w, exec (.ldVxDT 6) u = .next w) ∧
      (∃ w, exec (.ldVxDT 6) u' = .next w) ∧ 1 < s.v[(5 : Reg)].toNat ∧
      s.input.now + 15 * 1 ≤ u.input.now ∧ u.input.now < s.input.now + 15 * (1 + 1) ∧
      s.input.now + 15 * s.v[(5 : Reg)].toNat ≤ u'.input.now :=
  ⟨_, rfl, rfl, rfl, ⟨_, rfl⟩, ⟨_, rfl⟩, by decide +kernel, by decide +kernel, by decide +kernel,
    by decide +kernel⟩

/-- The last slot and the first. -/
theorem witness_KeyWaitTakesTheFirstUnpressedSlot :
    (15 < 16 ∧ (0x7FFF#16).getLsbD 15 = false ∧ ∀ j < 15, (0x7FFF#16).getLsbD j = true) ∧
      (0 < 16 ∧ (0xFFFE#16).getLsbD 0 = false ∧ ∀ j < 0, (0xFFFE#16).getLsbD j = true) := by decide +kernel

theorem witness_StalledKeyWaitKeepsTheState :
    stalled.fault.cause = .noFault ∧ stalled.pc.toNat ≤ 4094 ∧
      decodeWord stalled.fetchWord = some (.ldVxK 5) ∧
      ∀ k < 16, stalled.beginStep.input.keys.getLsbD k = true := by decide +kernel

theorem witness_ResetGivesTheListedValues :
    (State.reset = State.reset ∨ ∃ s now, State.reset = State.hostReset s now) ∧
      (faulted.hostReset 7 = State.reset ∨ ∃ s now, faulted.hostReset 7 = State.hostReset s now) :=
  ⟨.inl rfl, .inr ⟨_, _, rfl⟩⟩

theorem witness_LoadRomCopiesTheImage :
    Memory.wf (prog 0).cfg.fontTable (prog 0).mem ∧ (List.replicate 3584 (0xFF : Byte)).length ≤ 3584 :=
  ⟨by decide +kernel, List.length_replicate.le⟩

theorem witness_OversizedRomChangesNothing : 3584 < (List.replicate 3585 (0 : Byte)).length := by
  rw [List.length_replicate]; decide

end Sys2Proof.Tests
end

section
/-! What no instruction changes: the parameters (spec/00_scope.md R7) and the inputs of the step, which only
`State.beginStep` sets (spec/50_interfaces.md R108). -/

namespace Sys2Proof.Machine

variable {s t u : State}

/-! ## What `CALL` and `RET` can do -/

/-- `CALL` pushes `pc + 2` and jumps, or records the overflow (R62). -/
theorem execCall_cases {nnn : Addr12} (h : execCall nnn s = .next t) :
    (∃ hsp : s.sp.val < 16, t =
      (s.setStack (s.stack.set s.sp.val (s.pc + 2)) ⟨s.sp.val + 1, by omega⟩).setPc (zext16 nnn)) ∨
    (16 ≤ s.sp.val ∧ t = s.recordFault .stackOverflow (zext16 nnn)) := by
  unfold execCall at h
  split at h
  next hsp => exact .inl ⟨hsp, (Host.Outcome.next.inj h).symm⟩
  next hsp => exact .inr ⟨by omega, (Host.Outcome.next.inj h).symm⟩

/-- `RET` pops the newest entry and jumps to it, or records the underflow (R63). -/
theorem execRet_cases (h : execRet s = .next t) :
    (∃ hsp : 0 < s.sp.val, t =
      (s.setStack s.stack ⟨s.sp.val - 1, by omega⟩).setPc (s.stack[s.sp.val - 1]'(by omega))) ∨
    (s.sp.val = 0 ∧ t = s.recordFault .stackUnderflow 0) := by
  unfold execRet at h
  split at h
  next hsp => exact .inl ⟨hsp, (Host.Outcome.next.inj h).symm⟩
  next hsp => exact .inr ⟨by omega, (Host.Outcome.next.inj h).symm⟩

/-! ## The parameters and the inputs -/

/-- `t` has the parameters and the inputs of `s`: those sampled, those still to come, and the counter of
free ones. -/
structure State.SameContext (s t : State) : Prop where
  cfg : t.cfg = s.cfg
  input : t.input = s.input
  pending : t.pending = s.pending
  samples : t.samples = s.samples

theorem State.sameContext_recordFault (c : FaultCause) (info : Word) :
    s.SameContext (s.recordFault c info) := ⟨rfl, rfl, rfl, rfl⟩

theorem next_sameContext (h : (.next u : Result) = .next t) (hu : s.SameContext u) :
    s.SameContext t := Host.Outcome.next.inj h ▸ hu

/-- A block check keeps what its body keeps: the fault it may record changes neither parameters nor
inputs. -/
theorem checkBlock_sameContext {count : Nat} (h : checkBlock count s (.next u) = .next t)
    (hu : s.SameContext u) : s.SameContext t := by
  obtain ⟨hbody, -⟩ | ⟨-, -, rfl⟩ := checkBlock_cases h
  · exact next_sameContext hbody hu
  · exact State.sameContext_recordFault _ _

theorem checkKeyIndex_sameContext {x : Reg} (h : checkKeyIndex x s (.next u) = .next t)
    (hu : s.SameContext u) : s.SameContext t := by
  obtain ⟨hbody, -⟩ | ⟨-, rfl⟩ := checkKeyIndex_cases h
  · exact next_sameContext hbody hu
  · exact State.sameContext_recordFault _ _

theorem execCall_sameContext {nnn : Addr12} (h : execCall nnn s = .next t) : s.SameContext t := by
  obtain ⟨_, rfl⟩ | ⟨-, rfl⟩ := execCall_cases h
  · exact ⟨rfl, rfl, rfl, rfl⟩
  · exact State.sameContext_recordFault _ _

theorem execRet_sameContext (h : execRet s = .next t) : s.SameContext t := by
  obtain ⟨_, rfl⟩ | ⟨-, rfl⟩ := execRet_cases h
  · exact ⟨rfl, rfl, rfl, rfl⟩
  · exact State.sameContext_recordFault _ _

theorem keyWaitResult_sameContext (x : Reg) (slot : Option Nat) :
    s.SameContext (keyWaitResult x s slot) := by
  cases slot with
  | none => exact ⟨rfl, rfl, rfl, rfl⟩
  | some k => exact ⟨rfl, rfl, rfl, rfl⟩

/-- Every instruction keeps the parameters and the inputs. The named cases are those that can fault or
stall; every other one answers an update of the state outright. -/
theorem exec_sameContext {i : Instr} (h : exec i s = .next t) : s.SameContext t := by
  cases i with
  | call nnn => exact execCall_sameContext h
  | ret => exact execRet_sameContext h
  | ldVxK x => exact next_sameContext h (keyWaitResult_sameContext x s.firstUnpressed)
  | skp _ | sknp _ => exact checkKeyIndex_sameContext h ⟨rfl, rfl, rfl, rfl⟩
  | drw _ _ _ | ldB _ | storeRegs _ | loadRegs _ =>
    exact checkBlock_sameContext h ⟨rfl, rfl, rfl, rfl⟩
  | _ => exact next_sameContext h ⟨rfl, rfl, rfl, rfl⟩

/-- Settles O27, by the case split of `exec_sameContext` over the instructions. -/
theorem instructionsKeepParametersAndInputs : Obligations.InstructionsKeepParametersAndInputs := by
  unfold Obligations.InstructionsKeepParametersAndInputs
  intro i s t h
  obtain ⟨hcfg, hinput, hpending, hsamples⟩ := exec_sameContext h
  exact ⟨hcfg, hinput, hpending, hsamples⟩

end Sys2Proof.Machine
end

section
/-! What an instruction can do to the state, said once over all instructions; the invariant and the frames
below follow from it case by case. -/

namespace Sys2Proof.Machine

variable {i : Instr} {s t u : State}

/-- The ways an instruction `i` can leave a state `s`, each with what names the writer of the component or
bounds what is written. -/
inductive Effect (i : Instr) (s : State) : State → Prop where
  /-- A fault is recorded (R123). -/
  | fault (c : FaultCause) (info : Word) (hc : c ≠ .noFault) : Effect i s (s.recordFault c info)
  /-- The key wait found no slot (R105). -/
  | stall (hi : ∃ x, i = .ldVxK x) : Effect i s s
  /-- A jump or a skip; the greatest target is that of `JP V0` (R61, R65). -/
  | jump (p : Word) (hp : p.toNat ≤ 0x10FE ∨ p = s.pc + 2 ∨ p = s.pc + 4) : Effect i s (s.setPc p)
  /-- `CALL` pushes the return address (R62). -/
  | call (nnn : Addr12) (hi : i = .call nnn) (hsp : s.sp.val < 16) :
      Effect i s
        ((s.setStack (s.stack.set s.sp.val (s.pc + 2)) ⟨s.sp.val + 1, by omega⟩).setPc (zext16 nnn))
  /-- `RET` goes to the newest entry (R63). -/
  | ret (hi : i = .ret) (hsp : 0 < s.sp.val) :
      Effect i s
        ((s.setStack s.stack ⟨s.sp.val - 1, by omega⟩).setPc (s.stack[s.sp.val - 1]'(by omega)))
  /-- Registers are written, destinations only (R14, R15). -/
  | registers (v : Vector Byte 16) (hv : ∀ k, ¬ writesReg i k → v[k] = s.v[k]) :
      Effect i s (s.setV v).advance
  /-- `I` is written (R86). -/
  | address (a : Word) (hi : (∃ nnn, i = .ldI nnn) ∨ (∃ x, i = .addI x) ∨ ∃ x, i = .ldF x) :
      Effect i s (s.setI a).advance
  /-- Bytes are stored (R90, R91). -/
  | store (a : Nat) (bytes : List Byte) (hi : (∃ x, i = .ldB x) ∨ ∃ x, i = .storeRegs x) :
      Effect i s (s.setMem (s.memWith a bytes)).advance
  /-- The grid is drawn on or cleared (R94, R95). -/
  | draw (fb : Framebuffer) (v : Vector Byte 16) (hi : i = .cls ∨ ∃ x y n, i = .drw x y n)
      (hfb : ∀ c, fbShape c s.fb → fbShape c fb) (hv : ∀ k, ¬ writesReg i k → v[k] = s.v[k]) :
      Effect i s ((s.paint fb).setV v).advance
  /-- The delay timer is set (R99). -/
  | delay (x : Reg) (hi : i = .ldDTVx x) (value : Byte) (start : Nat) :
      Effect i s (s.setDelay value start).advance
  /-- The sound timer is set (R100). -/
  | sound (x : Reg) (hi : i = .ldSTVx x) : Effect i s (s.setSound s.v[x]).advance

theorem next_effect (h : (.next u : Result) = .next t) (hu : Effect i s u) : Effect i s t :=
  Host.Outcome.next.inj h ▸ hu

/-- A block check adds the fault to the effects of its body. -/
theorem checkBlock_effect {count : Nat} (h : checkBlock count s (.next u) = .next t)
    (hu : Effect i s u) : Effect i s t := by
  obtain ⟨hbody, -⟩ | ⟨-, -, rfl⟩ := checkBlock_cases h
  · exact next_effect hbody hu
  · exact .fault _ _ nofun

theorem checkKeyIndex_effect {x : Reg} (h : checkKeyIndex x s (.next u) = .next t)
    (hu : Effect i s u) : Effect i s t := by
  obtain ⟨hbody, -⟩ | ⟨-, rfl⟩ := checkKeyIndex_cases h
  · exact next_effect hbody hu
  · exact .fault _ _ nofun

theorem execCall_effect {nnn : Addr12} (h : execCall nnn s = .next t) : Effect (.call nnn) s t := by
  obtain ⟨hsp, rfl⟩ | ⟨-, rfl⟩ := execCall_cases h
  · exact .call nnn rfl hsp
  · exact .fault _ _ nofun

theorem execRet_effect (h : execRet s = .next t) : Effect .ret s t := by
  obtain ⟨hsp, rfl⟩ | ⟨-, rfl⟩ := execRet_cases h
  · exact .ret rfl hsp
  · exact .fault _ _ nofun

theorem ne_of_writesReg {x k : Reg} (hx : writesReg i x) (hk : ¬ writesReg i k) : k ≠ x :=
  fun he => hk (he ▸ hx)

/-- Writing one destination register. -/
theorem setReg_effect {x : Reg} (b : Byte) (hx : writesReg i x) : Effect i s (s.setReg x b).advance :=
  .registers (s.v.set x b) fun k hk => by
    rw [regs_set_get, if_neg (ne_of_writesReg hx hk)]

/-- Writing a destination register and the flag. -/
theorem setRegFlag_effect {x : Reg} (b : Byte) (f : Bool) (hx : writesReg i x)
    (hflag : writesReg i flagReg) : Effect i s (s.setRegFlag x b f).advance :=
  .registers ((s.v.set x b).set flagReg (flagByte f)) fun k hk => by
    rw [regs_set_get, if_neg (ne_of_writesReg hflag hk), regs_set_get, if_neg (ne_of_writesReg hx hk)]

theorem skipIf_effect (c : Bool) : Effect i s (s.skipIf c) := by
  cases c with
  | false => exact .jump (s.pc + 2) (.inr (.inl rfl))
  | true => exact .jump (s.pc + 4) (.inr (.inr rfl))

theorem keyWaitResult_effect (x : Reg) (slot : Option Nat) :
    Effect (.ldVxK x) s (keyWaitResult x s slot) := by
  cases slot with
  | none => exact .stall ⟨x, rfl⟩
  | some k => exact setReg_effect _ rfl

/-- `LD Vx, [I]` loads the registers up to `x` and no other. -/
theorem loadRegs_effect {x : Reg} {bytes : List Byte} (hlen : bytes.length = x.val + 1) :
    Effect (.loadRegs x) s (s.setV (fillRegs s.v 0 bytes)).advance :=
  .registers _ fun k hk => by
    have hk : ¬ k.val ≤ x.val := hk
    rw [fillRegs_get, if_neg (by omega)]

/-- The pixels drawn keep the shape of the grid, and the collision goes to the flag register alone. -/
theorem drw_effect {x y : Reg} {n : Nat} (touches : List Touch) (flag : Byte) :
    Effect (.drw x y n) s
      ((s.paint (drawTouches s.fb touches).1).setReg flagReg flag).advance :=
  .draw _ (s.v.set flagReg flag) (.inr ⟨x, y, n, rfl⟩)
    (fun _ h => fbShape_drawTouches h touches) fun k hk => by
    rw [regs_set_get]
    exact if_neg hk

theorem cls_effect : Effect .cls s (s.paint (clearedFb s.fb)).advance :=
  .draw _ s.v (.inl rfl) (fun _ => fbShape_clearedFb) fun _ _ => rfl

theorem zext16_addr_le (nnn : Addr12) : (zext16 nnn).toNat ≤ 0xFFF := by
  have := nnn.isLt
  rw [zext16, BitVec.toNat_setWidth]
  omega

/-- The 16-bit sum of `JP V0` does not wrap (R61). -/
theorem jumpV0Target_le (nnn : Addr12) (s : State) : (jumpV0Target nnn s).toNat ≤ 0x10FE := by
  have := nnn.isLt
  have := (s.reg 0).isLt
  rw [jumpV0Target, BitVec.toNat_add, zext16, zext16, BitVec.toNat_setWidth, BitVec.toNat_setWidth]
  omega

/-- Everything an instruction can do. -/
theorem exec_effect (h : exec i s = .next t) : Effect i s t := by
  cases i with
  | cls => exact next_effect h cls_effect
  | ret => exact execRet_effect h
  | jp nnn => exact next_effect h (.jump _ (.inl ((zext16_addr_le nnn).trans (by decide))))
  | call nnn => exact execCall_effect h
  | jpV0 nnn => exact next_effect h (.jump _ (.inl (jumpV0Target_le nnn s)))
  | seImm _ _ | sneImm _ _ | seReg _ _ _ | sneReg _ _ _ => exact next_effect h (skipIf_effect _)
  | skp _ | sknp _ => exact checkKeyIndex_effect h (skipIf_effect _)
  | ldImm x _ | addImm x _ | ldReg x _ | orReg x _ | andReg x _ | xorReg x _ | rnd x _ | ldVxDT x =>
    exact next_effect h (setReg_effect (x := x) _ rfl)
  | addReg x _ | subReg x _ | subnReg x _ | shr x _ | shl x _ =>
    exact next_effect h (setRegFlag_effect (x := x) _ _ (.inl rfl) (.inr rfl))
  | ldVxK x => exact next_effect h (keyWaitResult_effect x _)
  | ldI nnn => exact next_effect h (.address _ (.inl ⟨nnn, rfl⟩))
  | addI x => exact next_effect h (.address _ (.inr (.inl ⟨x, rfl⟩)))
  | ldF x => exact next_effect h (.address _ (.inr (.inr ⟨x, rfl⟩)))
  | ldB x => exact checkBlock_effect h (.store _ _ (.inl ⟨x, rfl⟩))
  | storeRegs x => exact checkBlock_effect h (.store _ _ (.inr ⟨x, rfl⟩))
  | loadRegs x => exact checkBlock_effect h (loadRegs_effect (State.readBlock_length s _))
  | drw x y n => exact checkBlock_effect h (drw_effect (s.spriteAt x y n) _)
  | ldDTVx x => exact next_effect h (.delay x rfl _ _)
  | ldSTVx x => exact next_effect h (.sound x rfl)

end Sys2Proof.Machine
end

section
/-! The invariant of the machine's data (spec/10_state.md R21, R23, R24), one effect after the other. -/

namespace Sys2Proof.Machine

variable {i : Instr} {s t u : State}

/-- From where an instruction can be fetched, no addition to `pc` wraps (R21). -/
theorem pc_add_le {p d : Word} (hp : p.toNat ≤ 4094) (hd : d.toNat ≤ 4) :
    (p + d).toNat ≤ 4094 + d.toNat := by
  rw [BitVec.toNat_add]
  omega

theorem State.Inv.beginStep (h : s.Inv) : s.beginStep.Inv := by
  obtain ⟨hmem, hfb, hpc, hret⟩ := h
  exact ⟨by simpa using hmem, by simpa using hfb, by simpa using hpc, by simpa using hret⟩

/-- A new `pc` within the bound keeps the invariant. -/
theorem State.Inv.setPc {p : Word} (h : s.Inv) (hp : p.toNat ≤ 0x10FE) : (s.setPc p).Inv :=
  ⟨h.memory, h.framebuffer, hp, h.returns⟩

/-- Where an instruction can be fetched, `pc + 2` is within the bound. -/
theorem State.Inv.advance (h : s.Inv) (hpc : s.pc.toNat ≤ 4094) : s.advance.Inv :=
  h.setPc ((pc_add_le hpc (by decide)).trans (by decide))

/-- Each effect of an instruction that could be fetched keeps the invariant: only `CALL` pushes an entry,
the address after a fetched instruction, and only `RET` jumps to one. -/
theorem Effect.inv (he : Effect i s t) (h : s.Inv) (hpc : s.pc.toNat ≤ 4094) : t.Inv := by
  have ⟨hmem, hfb, hcounter, hret⟩ := h
  have hnext : (s.pc + 2).toNat ≤ 0x1000 := pc_add_le hpc (by decide)
  cases he with
  | fault c info hc => exact ⟨hmem, hfb, hcounter, hret⟩
  | stall hi => exact h
  | jump p hp =>
    obtain hp | rfl | rfl := hp
    · exact h.setPc hp
    · exact h.advance hpc
    · exact h.setPc ((pc_add_le hpc (by decide)).trans (by decide))
  | call nnn hi hsp =>
    refine ⟨hmem, hfb, (zext16_addr_le nnn).trans (by decide), fun k => ?_⟩
    simp only [State.setPc_stack, State.setStack_stack, Fin.getElem_fin, Vector.getElem_set]
    split
    · exact hnext
    · exact hret k
  | ret hi hsp => exact ⟨hmem, hfb, (hret ⟨s.sp.val - 1, by omega⟩).trans (by decide), hret⟩
  | store a bytes hi =>
    exact State.Inv.advance ⟨State.memWith_wf bytes hmem, hfb, hcounter, hret⟩ hpc
  | draw fb v hi hshape hv => exact State.Inv.advance ⟨hmem, hshape _ hfb, hcounter, hret⟩ hpc
  | registers _ _ | address _ _ | delay _ _ _ _ | sound _ _ =>
    exact State.Inv.advance ⟨hmem, hfb, hcounter, hret⟩ hpc

/-- Settles O16: each of the four things a step can do keeps the invariant; an instruction by its effect,
from a `pc` the fetch check admits. -/
theorem stepKeepsTheInvariant : Obligations.StepKeepsTheInvariant := by
  unfold Obligations.StepKeepsTheInvariant
  intro s t h hstep
  have hb := h.beginStep
  obtain ⟨-, rfl⟩ | ⟨-, -, rfl⟩ | ⟨-, hpc, -, rfl⟩ | ⟨i, -, hpc, -, hexec⟩ := step_cases hstep
  · exact hb
  · exact ⟨hb.memory, hb.framebuffer, hb.counter, hb.returns⟩
  · exact State.Inv.advance ⟨hb.memory, hb.framebuffer, hb.counter, hb.returns⟩ (by simpa using hpc)
  · exact (exec_effect hexec).inv hb (by simpa using hpc)

end Sys2Proof.Machine
end

section
/-! What writes the register file, the flag and the address register (spec/10_state.md R14, R15, R22). -/

namespace Sys2Proof.Machine

variable {i : Instr} {s t u : State}

/-- Settles O19: the two effects that write registers write destinations only. -/
theorem onlyDestinationRegistersChange : Obligations.OnlyDestinationRegistersChange := by
  unfold Obligations.OnlyDestinationRegistersChange
  intro i s t k h hk
  cases exec_effect h with
  | registers v hv => exact hv k hk
  | draw fb v hi hfb hv => exact hv k hk
  | _ => rfl

/-- After a result and a flag are written, the flag register holds a flag byte, also with `x = F`. -/
theorem setRegFlag_flag {x : Reg} {b : Byte} {f : Bool}
    (h : (.next (s.setRegFlag x b f).advance : Result) = .next t) : ∃ f, t.v[15] = flagByte f := by
  cases h
  exact ⟨f, (s.setRegFlag_get x flagReg b f).trans (if_pos rfl)⟩

/-- `DRW` either faults or leaves the collision in the flag register. -/
theorem execDrw_flag {x y : Reg} {n : Nat} (h : execDrw x y n s = .next t) :
    t.fault.cause = .memOutOfRange ∨ ∃ f, t.v[15] = flagByte f := by
  obtain ⟨hbody, -⟩ | ⟨-, -, rfl⟩ := checkBlock_cases h
  · cases hbody
    exact .inr ⟨_, (State.setReg_get _ flagReg flagReg _).trans (if_pos rfl)⟩
  · exact .inl rfl

/-- A flag writer that does not fault leaves a flag byte in the flag register. -/
theorem exec_flag {x y : Reg} {n : Nat}
    (hi : i ∈ [.addReg x y, .subReg x y, .subnReg x y, .shr x y, .shl x y, .drw x y n])
    (h : exec i s = .next t) (ht : t.fault.cause = .noFault) : ∃ f, t.v[15] = flagByte f := by
  simp only [List.mem_cons, List.not_mem_nil, or_false] at hi
  obtain rfl | rfl | rfl | rfl | rfl | rfl := hi
  · exact setRegFlag_flag h
  · exact setRegFlag_flag h
  · exact setRegFlag_flag h
  · exact setRegFlag_flag h
  · exact setRegFlag_flag h
  · exact (execDrw_flag h).resolve_left fun hf => by simp [hf] at ht

/-- Settles O20, through `flagByte`, the one form every flag takes. -/
theorem flagIsZeroOrOne : Obligations.FlagIsZeroOrOne := by
  unfold Obligations.FlagIsZeroOrOne
  intro s t x y n i hi _ h ht
  obtain ⟨f, hf⟩ := exec_flag hi h ht
  exact hf ▸ flagByte_eq f

/-- Settles O22: the one effect that writes `I` names its three instructions. -/
theorem onlyAddressInstructionsChangeI : Obligations.OnlyAddressInstructionsChangeI := by
  unfold Obligations.OnlyAddressInstructionsChangeI
  intro i s t h hldI haddI hldF
  cases exec_effect h with
  | address a hi =>
    obtain ⟨nnn, rfl⟩ | ⟨x, rfl⟩ | ⟨x, rfl⟩ := hi
    · exact absurd rfl (hldI nnn)
    · exact absurd rfl (haddI x)
    · exact absurd rfl (hldF x)
  | _ => rfl

end Sys2Proof.Machine
end

section
/-! What reaches the call stack and the timers (spec/10_state.md R23, R26, R27): the writers from the effects,
the readers by running an instruction with the entries and the sound timer replaced. -/

namespace Sys2Proof.Machine

variable {i : Instr} {s t u : State}

section
variable {g : Vector Word 16 → Vector Word 16} {k : Byte → Byte}

/-- The state with its stack entries and its sound timer replaced. -/
def State.mapUnread (g : Vector Word 16 → Vector Word 16) (k : Byte → Byte) (s : State) : State :=
  { s with stack := g s.stack, st := k s.st }

theorem next_mapUnread (h : (.next u : Result) = .next t) :
    (.next (u.mapUnread g k) : Result) = .next (t.mapUnread g k) :=
  congrArg (fun w => Host.Outcome.next (w.mapUnread g k)) (Host.Outcome.next.inj h)

theorem checkBlock_mapUnread {count : Nat} (h : checkBlock count s (.next u) = .next t) :
    checkBlock count (s.mapUnread g k) (.next (u.mapUnread g k)) = .next (t.mapUnread g k) := by
  obtain ⟨hbody, hin⟩ | ⟨hne, hout, rfl⟩ := checkBlock_cases h
  · exact (checkBlock_of_inside (s := s.mapUnread g k) hin).trans (next_mapUnread hbody)
  · exact checkBlock_of_outside (s := s.mapUnread g k) hne hout

theorem checkKeyIndex_mapUnread {x : Reg} (h : checkKeyIndex x s (.next u) = .next t) :
    checkKeyIndex x (s.mapUnread g k) (.next (u.mapUnread g k)) = .next (t.mapUnread g k) := by
  obtain ⟨hbody, hin⟩ | ⟨hout, rfl⟩ := checkKeyIndex_cases h
  · exact (checkKeyIndex_of_slot (s := s.mapUnread g k) hin).trans (next_mapUnread hbody)
  · exact checkKeyIndex_of_no_slot (s := s.mapUnread g k) hout

theorem keyWaitResult_mapUnread (x : Reg) (slot : Option Nat) :
    keyWaitResult x (s.mapUnread g k) slot = (keyWaitResult x s slot).mapUnread g k := by
  cases slot with
  | none => rfl
  | some j => rfl

/-- An instruction other than `CALL`, `RET` and `LD ST` does the same whatever the entries and
the sound timer are. -/
theorem exec_mapUnread (hcall : ∀ nnn, i ≠ .call nnn) (hret : i ≠ .ret) (hsound : ∀ x, i ≠ .ldSTVx x)
    (h : exec i s = .next t) : exec i (s.mapUnread g k) = .next (t.mapUnread g k) := by
  cases i with
  | call nnn => exact absurd rfl (hcall nnn)
  | ret => exact absurd rfl hret
  | ldSTVx x => exact absurd rfl (hsound x)
  | ldVxK x =>
    exact (congrArg _ (keyWaitResult_mapUnread x s.firstUnpressed)).trans (next_mapUnread h)
  | skp _ | sknp _ => exact checkKeyIndex_mapUnread h
  | drw _ _ _ | ldB _ | storeRegs _ | loadRegs _ => exact checkBlock_mapUnread h
  | _ => exact next_mapUnread h

end

/-! ## The call stack -/

theorem execCall_of_room {nnn : Addr12} (hsp : s.sp.val < 16) :
    execCall nnn s = .next
      ((s.setStack (s.stack.set s.sp.val (s.pc + 2)) ⟨s.sp.val + 1, by omega⟩).setPc (zext16 nnn)) :=
  dif_pos hsp

theorem execCall_of_full {nnn : Addr12} (hsp : 16 ≤ s.sp.val) :
    execCall nnn s = .next (s.recordFault .stackOverflow (zext16 nnn)) :=
  dif_neg (by omega)

theorem execRet_of_entry (hsp : 0 < s.sp.val) :
    execRet s = .next
      ((s.setStack s.stack ⟨s.sp.val - 1, by omega⟩).setPc (s.stack[s.sp.val - 1]'(by omega))) :=
  dif_pos hsp

theorem execRet_of_empty (hsp : s.sp.val = 0) :
    execRet s = .next (s.recordFault .stackUnderflow 0) :=
  dif_neg (by omega)

theorem Effect.stack_eq (he : Effect i s t) (hcall : ∀ nnn, i ≠ .call nnn) : t.stack = s.stack := by
  cases he with
  | call nnn hi => exact absurd hi (hcall nnn)
  | _ => rfl

theorem Effect.sp_eq (he : Effect i s t) (hcall : ∀ nnn, i ≠ .call nnn) (hret : i ≠ .ret) :
    t.sp = s.sp := by
  cases he with
  | call nnn hi => exact absurd hi (hcall nnn)
  | ret hi => exact absurd hi hret
  | _ => rfl

/-- Only `RET` reads an entry: every other instruction does the same over other entries. -/
theorem exec_other_entries (hret : i ≠ .ret) (entries : Vector Word 16) (h : exec i s = .next t) :
    ∃ entries', exec i { s with stack := entries } = .next { t with stack := entries' } := by
  cases i with
  | ret => exact absurd rfl hret
  | call nnn =>
    obtain ⟨hsp, rfl⟩ | ⟨hsp, rfl⟩ := execCall_cases h
    · exact ⟨_, execCall_of_room (s := { s with stack := entries }) hsp⟩
    · exact ⟨_, execCall_of_full (s := { s with stack := entries }) hsp⟩
  | ldSTVx x => exact ⟨entries, by cases h; rfl⟩
  | _ => exact ⟨entries, exec_mapUnread (g := fun _ => entries) (k := id) nofun nofun nofun h⟩

/-- Settles O23: the two effects that write the stack are those of `CALL` and `RET`, and only `RET` reads
the entries. -/
theorem onlyCallAndReturnReachTheStack : Obligations.OnlyCallAndReturnReachTheStack := by
  unfold Obligations.OnlyCallAndReturnReachTheStack
  intro i s t h
  exact ⟨(exec_effect h).stack_eq, (exec_effect h).sp_eq,
    fun hret entries => exec_other_entries hret entries h⟩

/-! ## The timers -/

theorem Effect.delay_eq (he : Effect i s t) (hi : ∀ x, i ≠ .ldDTVx x) :
    t.dtValue = s.dtValue ∧ t.dtStart = s.dtStart := by
  cases he with
  | delay x hx => exact absurd hx (hi x)
  | _ => exact ⟨rfl, rfl⟩

/-- Settles O24: sampling, a fetch fault and an unrecognised word keep the delay registers, and among the
effects of an instruction only that of `LD DT, Vx` writes them. -/
theorem onlyLdDtChangesTheDelayTimer : Obligations.OnlyLdDtChangesTheDelayTimer := by
  unfold Obligations.OnlyLdDtChangesTheDelayTimer
  intro s t hstep hword
  obtain ⟨-, rfl⟩ | ⟨-, -, rfl⟩ | ⟨-, -, -, rfl⟩ | ⟨i, -, -, hd, hexec⟩ := step_cases hstep
  · simp
  · simp
  · simp
  · simpa using (exec_effect hexec).delay_eq fun x hx => hword x (hx ▸ hd)

theorem Effect.sound_eq (he : Effect i s t) :
    t.st = s.st ∨ ∃ x, i = .ldSTVx x ∧ t.st = s.v[x] := by
  cases he with
  | sound x hi => exact .inr ⟨x, hi, rfl⟩
  | _ => exact .inl rfl

/-- A step keeps the sound timer or is `LD ST, Vx`. -/
theorem step_sound (hstep : step s = .next t) :
    t.st = s.st ∨ ∃ x, decodeWord s.fetchWord = some (.ldSTVx x) ∧ t.st = s.v[x] := by
  obtain ⟨-, rfl⟩ | ⟨-, -, rfl⟩ | ⟨-, -, -, rfl⟩ | ⟨i, -, -, hd, hexec⟩ := step_cases hstep
  · simp
  · simp
  · simp
  · obtain hst | ⟨x, rfl, hst⟩ := (exec_effect hexec).sound_eq
    · exact .inl (by simpa using hst)
    · exact .inr ⟨x, hd, by simpa using hst⟩

/-- No instruction reads the sound timer: with another value in it each does the same. -/
theorem exec_other_sound (b : Byte) (h : exec i s = .next t) :
    ∃ c, exec i { s with st := b } = .next { t with st := c } := by
  cases i with
  | call nnn =>
    obtain ⟨hsp, rfl⟩ | ⟨hsp, rfl⟩ := execCall_cases h
    · exact ⟨b, execCall_of_room (s := { s with st := b }) hsp⟩
    · exact ⟨b, execCall_of_full (s := { s with st := b }) hsp⟩
  | ret =>
    obtain ⟨hsp, rfl⟩ | ⟨hsp, rfl⟩ := execRet_cases h
    · exact ⟨b, execRet_of_entry (s := { s with st := b }) hsp⟩
    · exact ⟨b, execRet_of_empty (s := { s with st := b }) hsp⟩
  | ldSTVx x => exact ⟨s.v[x], by cases h; rfl⟩
  | _ => exact ⟨b, exec_mapUnread (g := id) (k := fun _ => b) nofun nofun nofun h⟩

/-- Settles O25: reset and the host's read by definition, the writer by the effects, the absence of a
reader by `exec_other_sound`. -/
theorem soundTimerIsSetOnly : Obligations.SoundTimerIsSetOnly := by
  unfold Obligations.SoundTimerIsSetOnly
  exact ⟨fun _ _ => rfl, fun _ _ => step_sound, fun _ _ _ b h => exec_other_sound b h, fun _ => rfl⟩

end Sys2Proof.Machine
end

section
/-! Memory (spec/20_memory.md): what stores to it, the order of the fetched bytes, and the accesses that leave
it (R31, R33, R36, R37). -/

namespace Sys2Proof.Machine

variable {i : Instr} {s t : State}

/-! ## What stores to memory -/

/-- The one effect that writes memory names its two instructions. -/
theorem Effect.readByte_eq (he : Effect i s t) (hldB : ∀ x, i ≠ .ldB x)
    (hstore : ∀ x, i ≠ .storeRegs x) (a : Nat) : t.readByte a = s.readByte a := by
  cases he with
  | store _ _ hi =>
    obtain ⟨x, rfl⟩ | ⟨x, rfl⟩ := hi
    · exact absurd rfl (hldB x)
    · exact absurd rfl (hstore x)
  | _ => rfl

/-- Settles O21, by the effects of an instruction. -/
theorem onlyStoresChangeMemory : Obligations.OnlyStoresChangeMemory := by
  unfold Obligations.OnlyStoresChangeMemory
  intro i s t h hldB hstore
  exact (exec_effect h).readByte_eq hldB hstore

/-! ## The fetch -/

/-- Settles O6: the fetched word is made of the two bytes, and its high and low byte give them back. -/
theorem fetchIsBigEndian : Obligations.FetchIsBigEndian := by
  unfold Obligations.FetchIsBigEndian
  exact fun s => ⟨highByte_wordOfBytes _ _, lowByte_wordOfBytes _ _⟩

/-- Settles O11: the fault is recorded on the sampled state, whose outputs are inactive and whose `pc` is
that of `s`. -/
theorem fetchOutOfRangeIsRecorded : Obligations.FetchOutOfRangeIsRecorded := by
  unfold Obligations.FetchOutOfRangeIsRecorded
  intro s hf hpc
  rw [step_of_fetch_fault hf hpc]
  simp [State.recordFault, StepOutput.quiet]

/-! ## Blocks that leave memory -/

/-- A block whose highest address is `top` records that address when it lies above the memory. -/
theorem checkBlock_of_top {count top : Nat} {body : Result} (hc : count ≠ 0)
    (htop : top = s.i.toNat + count - 1) (h : 4095 < top) :
    checkBlock count s body = .next (s.recordFault .memOutOfRange (BitVec.ofNat 16 top)) := by
  subst htop
  exact checkBlock_of_outside hc (by omega)

/-- Settles O47: each of the four forms is one block check, of 3, `x + 1`, `x + 1` and `n` bytes. -/
theorem blockFaultsAreRecorded : Obligations.BlockFaultsAreRecorded := by
  unfold Obligations.BlockFaultsAreRecorded
  intro x y n top s i hi htop
  obtain ⟨rfl, ht⟩ | ⟨rfl, ht⟩ | ⟨rfl, ht⟩ | ⟨rfl, hn, ht⟩ := hi
  · exact checkBlock_of_top (count := 3) (by decide) ht htop
  · exact checkBlock_of_top (count := x.val + 1) (Nat.succ_ne_zero _) ht htop
  · exact checkBlock_of_top (count := x.val + 1) (Nat.succ_ne_zero _) ht htop
  · exact checkBlock_of_top (Nat.one_le_iff_ne_zero.mp hn) ht htop

end Sys2Proof.Machine
end

section
/-! The round trip of the encoding and the opcode map (spec/30_encoding.md R46 to R57): decoding what `encode`
gives, encoding what the decoder accepts, and the words it rejects. -/

namespace Sys2Proof

variable {op : Word} {i : Instr}

/-! ## The decoder on a word of a family with many rows (R53, R54) -/

theorem decodeWord_family8 (h : fieldFamily op = 0x8#4) :
    decodeWord op = decodeFamily8 (fieldX op) (fieldY op) (fieldN op).toNat := by
  rw [decodeWord, h]; rfl

theorem decodeWord_familyE (h : fieldFamily op = 0xE#4) :
    decodeWord op = decodeFamilyE (fieldX op) (fieldKK op).toNat := by
  rw [decodeWord, h]; rfl

theorem decodeWord_familyF (h : fieldFamily op = 0xF#4) :
    decodeWord op = decodeFamilyF (fieldX op) (fieldKK op).toNat := by
  rw [decodeWord, h]; rfl

/-! ## Decoding an encoding -/

/-- The decoder reads back every well-formed instruction; a discriminated family does so through its own
table, and the row count of `DRW` survives because it fits its field. -/
theorem decodeWord_encode (hwf : i.wellFormed = true) : decodeWord (encode i) = some i := by
  cases i with
  | cls | ret => rfl
  | jp _ | call _ | ldI _ | jpV0 _ | seImm _ _ | sneImm _ _ | ldImm _ _ | addImm _ _ | rnd _ _
  | seReg _ _ _ | sneReg _ _ _ => simp [encode, decodeWord]
  | drw x y n =>
    have hn : n < 16 := Nat.lt_succ_of_le (of_decide_eq_true hwf)
    simp [encode, decodeWord, Nat.mod_eq_of_lt hn]
  | ldReg x y | orReg x y | andReg x y | xorReg x y | addReg x y | subReg x y | shr x y | subnReg x y
  | shl x y =>
    rw [encode, decodeWord_family8 (fieldFamily_formatXYN ..)]
    simp [decodeFamily8]
  | skp x | sknp x =>
    rw [encode, decodeWord_familyE (fieldFamily_formatXK ..)]
    simp [decodeFamilyE]
  | ldVxDT x | ldVxK x | ldDTVx x | ldSTVx x | addI x | ldF x | ldB x | storeRegs x | loadRegs x =>
    rw [encode, decodeWord_familyF (fieldFamily_formatXK ..)]
    simp [decodeFamilyF]

/-- Settles O1: the two bytes make the encoded word again, and the decoder reads it back. -/
theorem decodeOfEncodeIsTheInstruction : Obligations.DecodeOfEncodeIsTheInstruction := by
  unfold Obligations.DecodeOfEncodeIsTheInstruction
  intro i rest hwf
  refine decode_two.mpr ?_
  rw [wordOfBytes_bytes]
  exact decodeWord_encode hwf

/-! ## Encoding what was decoded -/

section
variable {n : Nat} (h : (fieldFamily op).toNat = n)
include h

theorem formatA_of_family : formatA (BitVec.ofNat 4 n) (fieldNNN op) = op := by
  rw [← (BitVec.toNat_eq_nat.mp h).2, formatA_fields]

theorem formatXK_of_family : formatXK (BitVec.ofNat 4 n) (fieldX op) (fieldKK op) = op := by
  rw [← (BitVec.toNat_eq_nat.mp h).2, formatXK_fields]

theorem formatXYN_of_family :
    formatXYN (BitVec.ofNat 4 n) (fieldX op) (fieldY op) (fieldN op) = op := by
  rw [← (BitVec.toNat_eq_nat.mp h).2, formatXYN_fields]

end

/-- `op` is the word of the instruction `i`, whose operands fit their fields. -/
structure Instr.IsWord (i : Instr) (op : Word) : Prop where
  encode_eq : encode i = op
  wellFormed : i.wellFormed = true

theorem decodeFamily0_isWord (h : decodeFamily0 op = some i) : i.IsWord op := by
  unfold decodeFamily0 at h
  split at h
  next hop => cases h; exact ⟨hop.symm, rfl⟩
  next =>
    split at h
    next hop => cases h; exact ⟨hop.symm, rfl⟩
    next => cases h

theorem decodeFamily8_isWord {x y : Reg} {n : Nibble} (h : decodeFamily8 x y n.toNat = some i) :
    i.IsWord (formatXYN 0x8#4 x y n) := by
  unfold decodeFamily8 at h
  split at h
  case h_10 => cases h
  all_goals
    next hn => cases h; rw [(BitVec.toNat_eq_nat.mp hn).2]; exact ⟨rfl, rfl⟩

theorem decodeFamilyE_isWord {x : Reg} {kk : Byte} (h : decodeFamilyE x kk.toNat = some i) :
    i.IsWord (formatXK 0xE#4 x kk) := by
  unfold decodeFamilyE at h
  split at h
  case h_3 => cases h
  all_goals
    next hkk => cases h; rw [(BitVec.toNat_eq_nat.mp hkk).2]; exact ⟨rfl, rfl⟩

theorem decodeFamilyF_isWord {x : Reg} {kk : Byte} (h : decodeFamilyF x kk.toNat = some i) :
    i.IsWord (formatXK 0xF#4 x kk) := by
  unfold decodeFamilyF at h
  split at h
  case h_10 => cases h
  all_goals
    next hkk => cases h; rw [(BitVec.toNat_eq_nat.mp hkk).2]; exact ⟨rfl, rfl⟩

/-- The decoder accepts only the words of instructions. The arms are in the order of the families: `h_1` is
family 0, `h_16` family F. -/
theorem decodeWord_isWord (h : decodeWord op = some i) : i.IsWord op := by
  unfold decodeWord at h
  split at h
  case h_1 => exact decodeFamily0_isWord h
  case h_2 hfam | h_3 hfam | h_11 hfam | h_12 hfam => cases h; exact ⟨formatA_of_family hfam, rfl⟩
  case h_4 hfam | h_5 hfam | h_7 hfam | h_8 hfam | h_13 hfam =>
    cases h; exact ⟨formatXK_of_family hfam, rfl⟩
  case h_6 hfam | h_10 hfam => cases h; exact ⟨formatXYN_of_family hfam, rfl⟩
  case h_9 hfam => exact formatXYN_of_family hfam ▸ decodeFamily8_isWord h
  case h_14 hfam =>
    cases h
    refine ⟨?_, decide_eq_true (Nat.le_of_lt_succ (fieldN op).isLt)⟩
    rw [encode, BitVec.ofNat_toNat, BitVec.setWidth_eq]
    exact formatXYN_of_family hfam
  case h_15 hfam => exact formatXK_of_family hfam ▸ decodeFamilyE_isWord h
  case h_16 hfam => exact formatXK_of_family hfam ▸ decodeFamilyF_isWord h
  case h_17 => cases h

/-- Settles O2, by the family of the word. -/
theorem encodeOfDecodeIsTheWord : Obligations.EncodeOfDecodeIsTheWord := by
  unfold Obligations.EncodeOfDecodeIsTheWord
  intro op i h
  obtain ⟨hop, hwf⟩ := decodeWord_isWord h
  exact ⟨hop, hwf⟩

/-! ## The opcode map -/

/-- The word of an instruction is of its row. -/
theorem encode_matches_opcodeRow (i : Instr) :
    encode i &&& (opcodeRow i).mask = (opcodeRow i).pattern := by
  cases i with
  | cls | ret => rfl
  | jp nnn | call nnn | ldI nnn | jpV0 nnn => exact Laws.TableRow.formatA_and _ nnn
  | seImm x kk | sneImm x kk | ldImm x kk | addImm x kk | rnd x kk =>
    exact Laws.TableRow.formatXK_and_family _ x kk
  | seReg x y z | sneReg x y z | drw x y _ => exact Laws.TableRow.formatXYN_and_family _ x y _
  | ldReg x y | orReg x y | andReg x y | xorReg x y | addReg x y | subReg x y | shr x y | subnReg x y
  | shl x y => exact Laws.TableRow.formatXYN_and_low _ x y _
  | skp x | sknp x | ldVxDT x | ldVxK x | ldDTVx x | ldSTVx x | addI x | ldF x | ldB x | storeRegs x
  | loadRegs x => exact Laws.TableRow.formatXK_and_low _ x _

/-- A word agrees with the pattern of its row on the fields the mask keeps. -/
theorem fieldFamily_of_masked {pattern : Word} (h : op &&& 0xF000#16 = pattern) :
    fieldFamily op = fieldFamily pattern := by
  rw [← h, ← formatA_fields op, Laws.TableRow.formatA_and, fieldFamily_formatA, fieldFamily_formatA]

theorem fields_of_masked_nibble {pattern : Word} (h : op &&& 0xF00F#16 = pattern) :
    fieldFamily op = fieldFamily pattern ∧ fieldN op = fieldN pattern := by
  rw [← h, ← formatXYN_fields op, Laws.TableRow.formatXYN_and_low]
  simp

theorem fields_of_masked_byte {pattern : Word} (h : op &&& 0xF0FF#16 = pattern) :
    fieldFamily op = fieldFamily pattern ∧ fieldKK op = fieldKK pattern := by
  rw [← h, ← formatXK_fields op, Laws.TableRow.formatXK_and_low]
  simp

/-- A word of a row decodes to an instruction of that row: the mask fixes the family and the discriminant,
which choose the decoder's branch. -/
theorem decodeWord_of_matches {j : Instr} (h : op &&& (opcodeRow j).mask = (opcodeRow j).pattern) :
    ∃ i, decodeWord op = some i ∧ opcodeRow i = opcodeRow j := by
  cases j with
  | cls | ret =>
    obtain rfl := (BitVec.and_allOnes (x := op)).symm.trans h
    exact ⟨_, rfl, rfl⟩
  | jp _ | call _ | seImm _ _ | sneImm _ _ | seReg _ _ _ | ldImm _ _ | addImm _ _ | sneReg _ _ _
  | ldI _ | jpV0 _ | rnd _ _ | drw _ _ _ =>
    simp only [opcodeRow] at h
    refine ⟨_, by rw [decodeWord, fieldFamily_of_masked h]; rfl, ?_⟩
    rfl
  | ldReg _ _ | orReg _ _ | andReg _ _ | xorReg _ _ | addReg _ _ | subReg _ _ | shr _ _ | subnReg _ _
  | shl _ _ =>
    simp only [opcodeRow] at h
    obtain ⟨hfam, hn⟩ := fields_of_masked_nibble h
    refine ⟨_, by rw [decodeWord_family8 hfam, hn]; rfl, ?_⟩
    rfl
  | skp _ | sknp _ =>
    simp only [opcodeRow] at h
    obtain ⟨hfam, hkk⟩ := fields_of_masked_byte h
    refine ⟨_, by rw [decodeWord_familyE hfam, hkk]; rfl, ?_⟩
    rfl
  | ldVxDT _ | ldVxK _ | ldDTVx _ | ldSTVx _ | addI _ | ldF _ | ldB _ | storeRegs _ | loadRegs _ =>
    simp only [opcodeRow] at h
    obtain ⟨hfam, hkk⟩ := fields_of_masked_byte h
    refine ⟨_, by rw [decodeWord_familyF hfam, hkk]; rfl, ?_⟩
    rfl

/-- Settles O3: a matching word takes the decoder's branch of its row, and a decoded word is the encoding of
what it decodes to, which is of its row. -/
theorem decoderFollowsTheOpcodeTable : Obligations.DecoderFollowsTheOpcodeTable := by
  unfold Obligations.DecoderFollowsTheOpcodeTable
  intro op j
  refine ⟨decodeWord_of_matches, fun ⟨i, hi, hrow⟩ => ?_⟩
  rw [← hrow, ← (decodeWord_isWord hi).encode_eq]
  exact encode_matches_opcodeRow i

/-! ## The unrecognised words (R57) -/

theorem decodeFamily0_eq_none : decodeFamily0 op = none ↔ op.toNat ≠ 0x00E0 ∧ op.toNat ≠ 0x00EE := by
  unfold decodeFamily0
  split
  next hop => simp [hop]
  next hcls =>
    split
    next hop => simp [hop]
    next hret => simpa [← BitVec.toNat_inj] using And.intro hcls hret

theorem decodeFamily8_eq_none {x y : Reg} {n : Nat} (hn : n < 16) :
    decodeFamily8 x y n = none ↔ n ∈ [0x8, 0x9, 0xA, 0xB, 0xC, 0xD, 0xF] := by
  interval_cases n <;> simp [decodeFamily8]

theorem decodeFamilyE_eq_none {x : Reg} {kk : Nat} :
    decodeFamilyE x kk = none ↔ kk ∉ [0x9E, 0xA1] := by
  unfold decodeFamilyE
  split <;> simp_all

theorem decodeFamilyF_eq_none {x : Reg} {kk : Nat} :
    decodeFamilyF x kk = none ↔ kk ∉ [0x07, 0x0A, 0x15, 0x18, 0x1E, 0x29, 0x33, 0x55, 0x65] := by
  unfold decodeFamilyF
  split <;> simp_all

/-- Only the four discriminated families have unrecognised words. -/
theorem decodeWord_eq_none_iff :
    decodeWord op = none ↔
      ((fieldFamily op).toNat = 0 ∧ decodeFamily0 op = none) ∨
      ((fieldFamily op).toNat = 8 ∧
        decodeFamily8 (fieldX op) (fieldY op) (fieldN op).toNat = none) ∨
      ((fieldFamily op).toNat = 0xE ∧ decodeFamilyE (fieldX op) (fieldKK op).toNat = none) ∨
      ((fieldFamily op).toNat = 0xF ∧ decodeFamilyF (fieldX op) (fieldKK op).toNat = none) := by
  have hlt := (fieldFamily op).isLt
  unfold decodeWord
  generalize (fieldFamily op).toNat = n1 at hlt ⊢
  interval_cases n1 <;> simp

/-- Settles O4: the rejects of the four discriminants, the fields read off the word as numbers. -/
theorem unrecognisedWordsAreExactlyThese : Obligations.UnrecognisedWordsAreExactlyThese := by
  unfold Obligations.UnrecognisedWordsAreExactlyThese
  intro op
  rw [decodeWord_eq_none_iff, decodeFamily0_eq_none, decodeFamily8_eq_none (fieldN op).isLt,
    decodeFamilyE_eq_none, decodeFamilyF_eq_none, toNat_fieldFamily, toNat_fieldN, toNat_fieldKK]

/-- Settles O5, by running the decoder on each word. -/
theorem literalWordsDecode : Obligations.LiteralWordsDecode := by
  unfold Obligations.LiteralWordsDecode
  decide

end Sys2Proof
end

section
/-! The step of an unrecognised word (spec/30_encoding.md R56, R58). -/

namespace Sys2Proof.Machine

variable {op : Word}

/-- The one case in which no report is made (R58). -/
theorem reportsUnrecognised_eq_false_iff {c : Config} :
    reportsUnrecognised c op = false ↔ c.sys0nnnRecognised = true ∧ op.toNat / 4096 = 0 := by
  simp [reportsUnrecognised, ← BitVec.toNat_inj, toNat_fieldFamily]

/-- An unrecognised word moves `pc` and answers at most a report, since the sampled state is quiet. -/
theorem State.beginStep_skipUnrecognised (s : State) :
    s.beginStep.skipUnrecognised op =
      { s.beginStep with
        pc := s.pc + 2
        out := { StepOutput.quiet with
          unrec := if reportsUnrecognised s.cfg op then some (s.pc, op) else none } } := by
  simp [State.skipUnrecognised, State.advance, State.setPc]

/-- Settles O9: outside R58's case the report is made, and it is the only output. -/
theorem unrecognisedWordIsReportedAndSkipped : Obligations.UnrecognisedWordIsReportedAndSkipped := by
  unfold Obligations.UnrecognisedWordIsReportedAndSkipped
  intro s hf hpc hd hsys
  have hreport : reportsUnrecognised s.cfg s.fetchWord = true :=
    Bool.of_not_eq_false (mt reportsUnrecognised_eq_false_iff.mp hsys)
  rw [step_of_unrecognised hf hpc hd, State.beginStep_skipUnrecognised, hreport]
  rfl

/-- Settles O10: without a report the outputs stay quiet. -/
theorem recognisedSysWordIsASilentNoop : Obligations.RecognisedSysWordIsASilentNoop := by
  unfold Obligations.RecognisedSysWordIsASilentNoop
  intro s hf hpc hd hsys hop
  have hsilent : reportsUnrecognised s.cfg s.fetchWord = false :=
    reportsUnrecognised_eq_false_iff.mpr ⟨hsys, hop⟩
  rw [step_of_unrecognised hf hpc hd, State.beginStep_skipUnrecognised, hsilent]
  simp [StepOutput.quiet]

end Sys2Proof.Machine
end

section
/-! Control flow (spec/40_control_flow.md): the jumps, `CALL` and `RET`. -/

namespace Sys2Proof.Machine

variable {s : State}

/-- The target of `JP V0` is the 16-bit sum, not reduced to 12 bits (R61, GK8). -/
theorem jumpV0Target_eq (nnn : Addr12) (s : State) :
    jumpV0Target nnn s = BitVec.ofNat 16 (nnn.toNat + s.v[0].toNat) := by
  rw [BitVec.ofNat_add, BitVec.ofNat_toNat, BitVec.ofNat_toNat]
  rfl

/-- With `k` entries in use, `CALL` writes entry `k` and uses one entry more (R62). -/
theorem execCall_of_sp {nnn : Addr12} {k : Fin 16} (hsp : s.sp = k.castSucc) :
    execCall nnn s =
      .next ((s.setStack (s.stack.set k.val (s.pc + 2)) k.succ).setPc (zext16 nnn)) := by
  have hval : s.sp.val = k.val := congrArg Fin.val hsp
  rw [execCall_of_room (by omega)]
  simp only [hval]
  rfl

/-- With `k + 1` entries in use, `RET` jumps to entry `k` and uses one entry less (R63). -/
theorem execRet_of_sp {k : Fin 16} (hsp : s.sp.val = k.val + 1) :
    execRet s = .next ((s.setStack s.stack k.castSucc).setPc s.stack[k]) := by
  rw [execRet_of_entry (by omega)]
  simp only [hsp, Nat.add_sub_cancel]
  rfl

/-- Settles O32: the `CALL` leaves `k + 1` entries in use with `pc + 2` in entry `k`, which is the entry the
`RET` jumps to. -/
theorem callThenReturnComesBack : Obligations.CallThenReturnComesBack := by
  unfold Obligations.CallThenReturnComesBack
  intro nnn s t u k hsp hcall husp huentry
  obtain rfl := Host.Outcome.next.inj ((execCall_of_sp hsp).symm.trans hcall)
  have hentry : u.stack[k] = s.pc + 2 := huentry.trans (by simp)
  have hret := execRet_of_sp (s := u) (k := k) (congrArg Fin.val husp)
  exact ⟨rfl, rfl, rfl, _, hret, hentry, hsp.symm, rfl, rfl, rfl⟩

/-- Settles O28: each jump is one `State.setPc`, that of `JP V0` to the 16-bit sum. -/
theorem jumpsSetOnlyPc : Obligations.JumpsSetOnlyPc := by
  unfold Obligations.JumpsSetOnlyPc
  intro nnn s
  constructor
  · rfl
  · rw [← jumpV0Target_eq]
    rfl

/-- Settles O29: there is room for the pushed entry. -/
theorem callPushesTheReturnAddress : Obligations.CallPushesTheReturnAddress := by
  unfold Obligations.CallPushesTheReturnAddress
  intro nnn s hsp
  exact execCall_of_room hsp

/-- Settles O30: `RET` with its entry given by number. -/
theorem returnPopsTheStack : Obligations.ReturnPopsTheStack := by
  unfold Obligations.ReturnPopsTheStack
  intro s k hsp
  exact execRet_of_sp hsp

/-- Settles O31: both instructions record their fault by `State.recordFault`. -/
theorem stackFaultsAreRecorded : Obligations.StackFaultsAreRecorded := by
  unfold Obligations.StackFaultsAreRecorded
  intro nnn s
  exact ⟨fun hfull => execCall_of_full hfull.ge, fun hempty => execRet_of_empty hempty⟩

end Sys2Proof.Machine
end

section
/-! Skips (spec/41_skips.md): the four register skips and the two key skips. -/

namespace Sys2Proof.Machine

variable {s : State} {x : Reg}

/-- A skip on the test of `p` moves `pc` by 4 when `p` holds, else by 2, and nothing else (R65). -/
theorem State.skipIf_of_iff {c : Bool} {p : Prop} [Decidable p] (hc : c = true ↔ p) :
    s.skipIf c = { s with pc := s.pc + if p then 4 else 2 } := by
  simp only [State.skipIf, State.setPc, hc]

/-- A skip on the negated test of `p` has the two advances exchanged. -/
theorem State.skipIf_not_of_iff {c : Bool} {p : Prop} [Decidable p] (hc : c = true ↔ p) :
    s.skipIf (!c) = { s with pc := s.pc + if p then 2 else 4 } := by
  have hnot : (!c) = true ↔ ¬ p := by rw [Bool.not_eq_true', ← Bool.not_eq_true, hc]
  rw [State.skipIf_of_iff hnot, ite_not]

/-- With a slot number in `V[x]`, `SKP` skips on that slot of the sample (R70). -/
theorem execSkp_of_slot (hslot : s.v[x].toNat ≤ 15) :
    execSkp x s = .next (s.skipIf (s.keyPressed s.v[x].toNat)) :=
  checkKeyIndex_of_slot hslot

/-- With a slot number in `V[x]`, `SKNP` skips on the negation of that slot of the sample (R71). -/
theorem execSknp_of_slot (hslot : s.v[x].toNat ≤ 15) :
    execSknp x s = .next (s.skipIf (!s.keyPressed s.v[x].toNat)) :=
  checkKeyIndex_of_slot hslot

/-- Settles O33: the tests of bytes decide their equality, and the ignored nibble is not read. -/
theorem registerSkipsAdvanceByFourOrTwo : Obligations.RegisterSkipsAdvanceByFourOrTwo := by
  unfold Obligations.RegisterSkipsAdvanceByFourOrTwo
  intro x y kk z s
  refine ⟨?seImm, ?sneImm, ?seReg, ?sneReg⟩
  case seImm | seReg => exact congrArg Host.Outcome.next (State.skipIf_of_iff beq_iff_eq)
  case sneImm | sneReg => exact congrArg Host.Outcome.next (State.skipIf_not_of_iff beq_iff_eq)

/-- Settles O34: with a slot number in `V[x]` the key check lets both skips run. -/
theorem keySkipsTestTheSampledSlot : Obligations.KeySkipsTestTheSampledSlot := by
  unfold Obligations.KeySkipsTestTheSampledSlot
  intro x s hslot
  constructor
  case left => exact (execSkp_of_slot hslot).trans (congrArg _ (State.skipIf_of_iff .rfl))
  case right => exact (execSknp_of_slot hslot).trans (congrArg _ (State.skipIf_not_of_iff .rfl))

/-- Settles O35: the key check of both skips records the fault in place of the skip, so no key is tested. -/
theorem keyIndexFaultIsRecorded : Obligations.KeyIndexFaultIsRecorded := by
  unfold Obligations.KeyIndexFaultIsRecorded
  intro x s i hi hnoSlot
  obtain rfl | rfl : i = .skp x ∨ i = .sknp x := by simpa using hi
  case inl => exact checkKeyIndex_of_no_slot hnoSlot
  case inr => exact checkKeyIndex_of_no_slot hnoSlot

end Sys2Proof.Machine
end

section
/-! Register and immediate arithmetic (spec/42_arithmetic.md): what a result and its flag are as numbers, and
the one way a result and a flag are written. -/

namespace Sys2Proof.Machine

variable {s t : State} {a b : Byte} {x : Reg}

/-! ## Results and flags as numbers -/

theorem toNat_carryOut : (carryOut a b).toNat = if 255 < a.toNat + b.toNat then 1 else 0 :=
  Bool.cond_decide _ 1 0

theorem toNat_notBorrow : (notBorrow a b).toNat = if b.toNat ≤ a.toNat then 1 else 0 :=
  Bool.cond_decide _ 1 0

/-- The bit a right shift drops is the remainder by two. -/
theorem toNat_shiftedOutRight : (shiftedOutRight a).toNat = a.toNat % 2 := by
  rw [shiftedOutRight, ← BitVec.testBit_toNat, Nat.toNat_testBit, Nat.pow_zero, Nat.div_one]

/-- The bit a left shift drops is the top half of the byte's range. -/
theorem toNat_shiftedOutLeft : (shiftedOutLeft a).toNat = a.toNat / 128 := by
  have := a.isLt
  rw [shiftedOutLeft, ← BitVec.testBit_toNat, Nat.toNat_testBit]
  omega

theorem toNat_shiftRight_one : (a >>> 1).toNat = a.toNat / 2 := by
  rw [BitVec.toNat_ushiftRight, Nat.shiftRight_one]

theorem toNat_shiftLeft_one : (a <<< 1).toNat = a.toNat * 2 % 256 := by
  rw [BitVec.toNat_shiftLeft, Nat.shiftLeft_eq]

theorem toNat_sub_byte : (a - b).toNat = (a.toNat + 256 - b.toNat) % 256 := by
  have := b.isLt
  rw [BitVec.toNat_sub]
  omega

/-! ## Flag and result together (R85) -/

theorem carryOut_add_exact : 256 * (carryOut a b).toNat + (a + b).toNat = a.toNat + b.toNat := by
  have := a.isLt
  have := b.isLt
  rw [toNat_carryOut, BitVec.toNat_add]
  split <;> omega

theorem notBorrow_sub_exact :
    ((a - b).toNat : Int) = a.toNat - b.toNat + 256 * (1 - (notBorrow a b).toNat) := by
  have := a.isLt
  have := b.isLt
  rw [toNat_notBorrow, toNat_sub_byte]
  split <;> omega

theorem shiftedOutRight_exact : 2 * (a >>> 1).toNat + (shiftedOutRight a).toNat = a.toNat := by
  rw [toNat_shiftRight_one, toNat_shiftedOutRight]
  omega

theorem shiftedOutLeft_exact : 256 * (shiftedOutLeft a).toNat + (a <<< 1).toNat = 2 * a.toNat := by
  have := a.isLt
  rw [toNat_shiftLeft_one, toNat_shiftedOutLeft]
  omega

/-- Where the flag does not overwrite the result, both can be read back. -/
theorem setRegFlag_read {f : Bool} (hx : x ≠ 15)
    (h : (.next (s.setRegFlag x a f).advance : Result) = .next t) :
    t.v[15].toNat = f.toNat ∧ t.v[x] = a := by
  obtain rfl := Host.Outcome.next.inj h
  have hflag : (s.setRegFlag x a f).v[flagReg] = flagByte f :=
    (s.setRegFlag_get x flagReg a f).trans (if_pos rfl)
  have hresult : (s.setRegFlag x a f).v[x] = a := by
    rw [State.setRegFlag_get, if_neg hx, if_pos rfl]
  exact ⟨(congrArg BitVec.toNat hflag).trans (flagByte_toNat f), hresult⟩

/-- Settles O41: the flag and the result are read back, and hold the exact value of their operation. -/
theorem flagAndResultHoldTheExactValue : Obligations.FlagAndResultHoldTheExactValue := by
  unfold Obligations.FlagAndResultHoldTheExactValue
  intro x y s t hx
  refine ⟨fun h => ?add, fun h => ?sub, fun h => ?subn, fun h => ?shr, fun h => ?shl⟩
  all_goals
    obtain ⟨hflag, hresult⟩ := setRegFlag_read hx h
    rw [hflag, hresult]
  case add => exact carryOut_add_exact
  case sub | subn => exact notBorrow_sub_exact
  case shr => exact shiftedOutRight_exact
  case shl => exact shiftedOutLeft_exact

/-! ## The words by number -/

/-- A word given by the number of an encoding decodes to the encoded instruction. -/
theorem decodeWord_ofNat {i : Instr} {n : Nat} (hwf : i.wellFormed = true) (hn : (encode i).toNat = n) :
    decodeWord (BitVec.ofNat 16 n) = some i := by
  rw [← (BitVec.toNat_eq_nat.mp hn).2]
  exact decodeWord_encode hwf

/-! ## The written states -/

/-- A byte is given by its number. -/
theorem byte_eq_ofNat {n : Nat} (h : a.toNat = n) : a = BitVec.ofNat 8 n :=
  (BitVec.toNat_eq_nat.mp h).2

theorem add_eq_ofNat : a + b = BitVec.ofNat 8 ((a.toNat + b.toNat) % 256) :=
  byte_eq_ofNat (BitVec.toNat_add a b)

theorem flagByte_decide (p : Prop) [Decidable p] : flagByte (decide p) = if p then 1 else 0 := by
  simp only [flagByte, decide_eq_true_eq]

/-- A result and a flag are written, and `pc` advances: with `x = F` the flag overwrites the result (R16), so
that only the flag is left. -/
theorem advance_setRegFlag {f : Bool} {r g : Byte} (hr : a = r) (hg : flagByte f = g) :
    (s.setRegFlag x a f).advance =
      { s with v := (if x = 15 then s.v else s.v.set x r).set 15 g, pc := s.pc + 2 } := by
  subst hr hg
  split
  next hx =>
    subst hx
    have hregs : (s.v.set 15 a).set 15 (flagByte f) = s.v.set 15 (flagByte f) := Vector.set_set ..
    rw [← hregs]
    rfl
  next => rfl

/-! ## The operations, one by one -/

/-- Settles O36: the number of the word is that of the encoding, and the write is one `State.setReg`. -/
theorem loadImmediateWritesTheRegister : Obligations.LoadImmediateWritesTheRegister := by
  unfold Obligations.LoadImmediateWritesTheRegister
  intro x kk
  exact ⟨decodeWord_ofNat rfl (toNat_formatXK 0x6#4 x kk), fun _ => rfl⟩

/-- Settles O37: each operation is one `State.setReg`; only the immediate sum is given as a number. -/
theorem flaglessRegisterOperations : Obligations.FlaglessRegisterOperations := by
  unfold Obligations.FlaglessRegisterOperations
  intro x y kk s
  refine ⟨rfl, ?addImm, rfl, rfl, rfl, rfl⟩
  rw [← add_eq_ofNat]
  rfl

/-- Settles O38: the word is that of the encoding, the result the sum as a number, the flag the carry. -/
theorem addRegisterWritesSumThenCarry : Obligations.AddRegisterWritesSumThenCarry := by
  unfold Obligations.AddRegisterWritesSumThenCarry
  intro x y
  have hword : (encode (.addReg x y)).toNat = 0x8004 + x.val * 256 + y.val * 16 := by
    rw [encode, toNat_formatXYN]
    simp only [BitVec.toNat_ofNat]
    omega
  refine ⟨decodeWord_ofNat rfl hword, fun s => ?_⟩
  exact congrArg _ (advance_setRegFlag add_eq_ofNat (flagByte_decide _))

/-- Settles O39: both subtractions write a difference and its "not borrow", with the operands exchanged. -/
theorem subtractionsWriteDifferenceThenNotBorrow :
    Obligations.SubtractionsWriteDifferenceThenNotBorrow := by
  unfold Obligations.SubtractionsWriteDifferenceThenNotBorrow
  intro x y s
  constructor
  case left | right =>
    exact congrArg _ (advance_setRegFlag (byte_eq_ofNat toNat_sub_byte) (flagByte_decide _))

/-- Settles O40: the result and the bit shifted out are a quotient and a remainder of the old value. -/
theorem shiftsWriteResultThenTheBitShiftedOut : Obligations.ShiftsWriteResultThenTheBitShiftedOut := by
  unfold Obligations.ShiftsWriteResultThenTheBitShiftedOut
  intro x y s
  constructor
  case left =>
    exact congrArg _ (advance_setRegFlag (byte_eq_ofNat toNat_shiftRight_one)
      (byte_eq_ofNat ((flagByte_toNat _).trans toNat_shiftedOutRight)))
  case right =>
    exact congrArg _ (advance_setRegFlag (byte_eq_ofNat toNat_shiftLeft_one)
      (byte_eq_ofNat ((flagByte_toNat _).trans toNat_shiftedOutLeft)))

end Sys2Proof.Machine
end

section
/-! The address register and the loads and stores through it (spec/43_memory_address.md). -/

namespace Sys2Proof.Machine

variable {s : State} {x : Reg}

/-! ## Blocks inside memory -/

theorem execLdB_of_inside (hend : s.i.toNat + 2 ≤ 4095) :
    execLdB x s = .next (s.setMem (s.memWith s.i.toNat (bcdDigits s.v[x]))).advance :=
  checkBlock_of_inside (.inr (by omega))

theorem execStoreRegs_of_inside (hend : s.i.toNat + x.val ≤ 4095) :
    execStoreRegs x s =
      .next (s.setMem (s.memWith s.i.toNat (s.v.toList.take (x.val + 1)))).advance :=
  checkBlock_of_inside (.inr (by omega))

theorem execLoadRegs_of_inside (hend : s.i.toNat + x.val ≤ 4095) :
    execLoadRegs x s =
      .next (s.setV (fillRegs s.v 0 (s.readBlock s.i.toNat (x.val + 1)))).advance :=
  checkBlock_of_inside (.inr (by omega))

/-! ## What a stored block reads as -/

section
variable {a : Nat} {bytes : List Byte}
  (hwf : Memory.wf s.cfg.fontTable s.mem) (hend : a + bytes.length ≤ Config.memSize)
include hwf hend

/-- Byte `k` of a stored block stands at its address. -/
theorem readByte_memWith_inside {k : Nat} (hk : k < bytes.length) :
    (s.setMem (s.memWith a bytes)).advance.readByte (a + k) = bytes.getD k 0 := by
  refine (State.readByte_setMem_memWith bytes hwf hend).trans ?_
  rw [if_pos (by omega), Nat.add_sub_cancel_left]

/-- A stored block leaves every other byte alone. -/
theorem readByte_memWith_outside {a' : Nat} (ha : a' < a ∨ a + bytes.length ≤ a') :
    (s.setMem (s.memWith a bytes)).advance.readByte a' = s.readByte a' := by
  refine (State.readByte_setMem_memWith bytes hwf hend).trans ?_
  rw [if_neg (by omega)]

end

/-! ## The decimal digits -/

/-- The digits fit their bytes (R90). -/
theorem toNat_bcdDigits (b : Byte) :
    ((bcdDigits b).getD 0 0).toNat = b.toNat / 100 ∧
      ((bcdDigits b).getD 1 0).toNat = b.toNat / 10 % 10 ∧
      ((bcdDigits b).getD 2 0).toNat = b.toNat % 10 := by
  have := b.isLt
  refine ⟨Nat.mod_eq_of_lt ?hundreds, Nat.mod_eq_of_lt ?tens, Nat.mod_eq_of_lt ?ones⟩ <;> omega

/-- Settles O43: the three digits are a stored block. -/
theorem bcdStoresThreeDigits : Obligations.BcdStoresThreeDigits := by
  unfold Obligations.BcdStoresThreeDigits
  intro x s hwf hend
  have hblock : s.i.toNat + (bcdDigits s.v[x]).length ≤ Config.memSize := Nat.succ_le_succ hend
  have hread {k : Nat} (hk : k < 3) := readByte_memWith_inside hwf hblock hk
  obtain ⟨hhundreds, htens, hones⟩ := toNat_bcdDigits s.v[x]
  refine ⟨_, execLdB_of_inside hend, rfl, ?_, ?_, ?_, fun a ha => ?_⟩
  · exact (congrArg BitVec.toNat (hread (k := 0) (by decide))).trans hhundreds
  · exact (congrArg BitVec.toNat (hread (k := 1) (by decide))).trans htens
  · exact (congrArg BitVec.toNat (hread (k := 2) (by decide))).trans hones
  · exact readByte_memWith_outside hwf hblock ha

/-! ## The bulk transfers -/

/-- Settles O44: the registers up to `x` are a stored block of `x + 1` bytes. -/
theorem bulkStoreWritesRegisters : Obligations.BulkStoreWritesRegisters := by
  unfold Obligations.BulkStoreWritesRegisters
  intro x s hwf hend
  have hlen := regs_take_length s.v x
  have hblock : s.i.toNat + (s.v.toList.take (x.val + 1)).length ≤ Config.memSize := by
    rw [hlen]
    exact Nat.succ_le_succ hend
  refine ⟨_, execStoreRegs_of_inside hend, rfl, fun k hk => ?_, fun a ha => ?_⟩
  · have hk : k.val ≤ x.val := hk
    exact (readByte_memWith_inside hwf hblock (by omega)).trans (regs_take_getD s.v x hk)
  · exact readByte_memWith_outside hwf hblock (by omega)

/-- Settles O45: the registers up to `x` are filled with a block of `x + 1` bytes. -/
theorem bulkLoadReadsRegisters : Obligations.BulkLoadReadsRegisters := by
  unfold Obligations.BulkLoadReadsRegisters
  intro x s hend
  have hregs (k : Reg) := fillRegs_get (s.readBlock s.i.toNat (x.val + 1)) s.v 0 k
  simp only [State.readBlock_length, Nat.zero_add, Nat.zero_le, true_and, Nat.sub_zero] at hregs
  refine ⟨_, execLoadRegs_of_inside hend, rfl, fun k hk => ?_, fun k hk => ?_⟩
  · have hk : k.val < x.val + 1 := Nat.lt_succ_of_le hk
    exact (hregs k).trans ((if_pos hk).trans (State.readBlock_getD hk))
  · have hk : ¬ k.val < x.val + 1 := Nat.not_lt.mpr hk
    exact (hregs k).trans (if_neg hk)

/-- Settles O46: the load reads back, byte by byte, what the store wrote. -/
theorem bulkLoadRestoresWhatBulkStoreWrote : Obligations.BulkLoadRestoresWhatBulkStoreWrote := by
  unfold Obligations.BulkLoadRestoresWhatBulkStoreWrote
  intro x s t u hwf hend hstore hui hmem
  obtain ⟨t', hstore', -, hstored, -⟩ := bulkStoreWritesRegisters x s hwf hend
  obtain rfl := Host.Outcome.next.inj (hstore'.symm.trans hstore)
  obtain ⟨w, hload, -, hloaded, -⟩ := bulkLoadReadsRegisters x u (hui ▸ hend)
  refine ⟨w, hload, fun k hk => ?_⟩
  calc w.v[k] = u.readByte (u.i.toNat + k.val) := hloaded k hk
    _ = t'.readByte (s.i.toNat + k.val) := by rw [hui, hmem]
    _ = s.v[k] := hstored k hk

/-! ## The address register -/

/-- The sum of `ADD I` as a number (R88). -/
theorem add_zext16_eq_ofNat (i : Word) (b : Byte) :
    i + zext16 b = BitVec.ofNat 16 ((i.toNat + b.toNat) % 65536) := by
  apply BitVec.eq_of_toNat_eq
  have := b.isLt
  rw [BitVec.toNat_add, zext16, BitVec.toNat_setWidth, BitVec.toNat_ofNat]
  omega

/-- The address of a glyph as a number (R89). -/
theorem glyphAddress_eq_ofNat (b : Byte) : glyphAddress b = BitVec.ofNat 16 (5 * b.toNat) := by
  rw [BitVec.ofNat_mul, BitVec.ofNat_toNat]
  rfl

/-- Settles O42: each instruction is one `State.setI`, its address given as a number. -/
theorem addressRegisterOperations : Obligations.AddressRegisterOperations := by
  unfold Obligations.AddressRegisterOperations
  intro x nnn s
  rw [← add_zext16_eq_ofNat, ← glyphAddress_eq_ofNat]
  exact ⟨rfl, rfl, rfl⟩

end Sys2Proof.Machine
end

section
/-! The framebuffer, its writers and drawing (spec/44_display.md): who writes it, what `CLS` and `DRW` leave,
and what a second `DRW` undoes. -/

namespace Sys2Proof.Machine

variable {i : Instr} {s t u : State} {x y : Reg} {n : Nat}

/-! ## The writers -/

/-- An instruction leaves the framebuffer, `dirty` and the pulse alone, or it is `CLS` or `DRW`, sets both and
keeps the fault record. -/
theorem Effect.framebuffer_cases (he : Effect i s t) :
    (t.fb = s.fb ∧ t.dirty = s.dirty ∧ t.out.fbWritten = s.out.fbWritten) ∨
      ((i = .cls ∨ ∃ x y n, i = .drw x y n) ∧ t.fault = s.fault ∧ t.dirty = true ∧
        t.out.fbWritten = true) := by
  cases he with
  | draw fb v hi hfb hv => exact .inr ⟨hi, rfl, rfl, rfl⟩
  | _ => exact .inl ⟨rfl, rfl, rfl⟩

/-- `CLS` and an unfaulted `DRW` pulse `fb_written`. -/
theorem exec_fbWritten (hi : i = .cls ∨ ∃ x y n, i = .drw x y n) (h : exec i s = .next t)
    (ht : t.fault.cause = .noFault) : t.out.fbWritten = true := by
  obtain rfl | ⟨x, y, n, rfl⟩ := hi
  · cases h
    rfl
  · obtain ⟨hbody, -⟩ | ⟨-, -, rfl⟩ := checkBlock_cases h
    · cases hbody
      rfl
    · exact absurd ht nofun

/-- An instruction begun with a quiet output and no fault pulses `fb_written` exactly when it is `CLS` or `DRW`
and does not fault. -/
theorem exec_fbWritten_iff (hq : s.out.fbWritten = false) (hs : s.fault.cause = .noFault)
    (h : exec i s = .next t) :
    t.out.fbWritten = true ↔
      t.fault.cause = .noFault ∧ (i = .cls ∨ ∃ x y n, i = .drw x y n) := by
  refine ⟨fun hw => ?_, fun ⟨ht, hi⟩ => exec_fbWritten hi h ht⟩
  obtain ⟨-, -, hkept⟩ | ⟨hi, hfault, -, -⟩ := (exec_effect h).framebuffer_cases
  · simp [hkept, hq] at hw
  · exact ⟨hfault ▸ hs, hi⟩

/-- Settles O26: only the step of an instruction can paint, and among the effects only that of `CLS` and
`DRW` does. -/
theorem framebufferWritersSetDirty : Obligations.FramebufferWritersSetDirty := by
  unfold Obligations.FramebufferWritersSetDirty
  refine ⟨fun s t hstep => ?_, fun _ _ => ⟨rfl, rfl⟩, fun _ => rfl⟩
  obtain ⟨hf, rfl⟩ | ⟨-, hpc, rfl⟩ | ⟨-, -, hd, rfl⟩ | ⟨i, hf, hpc, hd, hexec⟩ := step_cases hstep
  · simp [hf, StepOutput.quiet]
  · simp [Nat.not_le.mpr hpc, StepOutput.quiet]
  · simp [hd, StepOutput.quiet]
  · have hq : s.beginStep.out.fbWritten = false := by simp [StepOutput.quiet]
    constructor
    · rw [exec_fbWritten_iff hq (by simpa using hf) hexec]
      simp [hf, hpc, hd]
    · obtain ⟨hfb, hdirty, hw⟩ | ⟨-, -, hdirty, hw⟩ := (exec_effect hexec).framebuffer_cases
      · simp [hfb, hdirty, hw, StepOutput.quiet]
      · simp [hdirty, hw]

/-! ## `CLS` -/

theorem clearedFb_row_lengths (fb : Framebuffer) :
    (clearedFb fb).map List.length = fb.map List.length := by
  simp [clearedFb, Function.comp_def]

/-- Settles O48: the cleared grid has no set pixel and the rows it had. -/
theorem clearScreenZeroesTheGrid : Obligations.ClearScreenZeroesTheGrid := by
  unfold Obligations.ClearScreenZeroesTheGrid
  exact ⟨decodeWord_encode (i := .cls) rfl, fun s =>
    ⟨_, rfl, rfl, pixelAt_clearedFb s.fb, clearedFb_row_lengths s.fb⟩⟩

/-! ## `DRW` inside memory -/

/-- The state `DRW` leaves when it does not fault (R94). -/
def State.drawn (s : State) (x y : Reg) (n : Nat) : State :=
  { s with
    fb := (drawTouches s.fb (s.spriteAt x y n)).1
    v := s.v.set 15 (flagByte (drawTouches s.fb (s.spriteAt x y n)).2)
    dirty := true, out := { s.out with fbWritten := true }, pc := s.pc + 2 }

@[simp] theorem State.drawn_fb : (s.drawn x y n).fb = (drawTouches s.fb (s.spriteAt x y n)).1 := rfl

theorem State.drawn_flag :
    (s.drawn x y n).v[15] = flagByte (drawTouches s.fb (s.spriteAt x y n)).2 :=
  (regs_set_get s.v flagReg flagReg _).trans (if_pos rfl)

theorem exec_drw_of_inside (hend : n = 0 ∨ s.i.toNat + n - 1 ≤ 4095) :
    exec (.drw x y n) s = .next (s.drawn x y n) :=
  checkBlock_of_inside (by omega)

/-- Settles O50: inside memory the block check lets the draw run, and no row is no pixel. -/
theorem drawCompletesInsideMemory : Obligations.DrawCompletesInsideMemory := by
  unfold Obligations.DrawCompletesInsideMemory
  exact fun x y n s => ⟨exec_drw_of_inside, exec_drw_of_inside (.inl rfl)⟩

/-! ## The pixels of a sprite on a legal grid -/

theorem flagByte_eq_one_iff {f : Bool} : flagByte f = 1 ↔ f = true := by
  cases f <;> simp [flagByte]

/-- The pixels a sprite lands on are decided by the parameters, the coordinates, `I` and memory. -/
theorem State.spriteAt_congr (hcfg : u.cfg = s.cfg) (hx : u.v[x] = s.v[x]) (hy : u.v[y] = s.v[y])
    (hi : u.i = s.i) (hmem : ∀ a, u.readByte a = s.readByte a) :
    u.spriteAt x y n = s.spriteAt x y n := by
  have hblock : u.readBlock s.i.toNat n = s.readBlock s.i.toNat n :=
    Memory.readBytes_congr fun _ _ => hmem _
  simp only [State.spriteAt, State.reg_def, hcfg, hx, hy, hi, hblock]

section
variable (hwf : s.cfg.wf) (hn : n ≤ 15)
include hwf

theorem State.spriteAt_inside :
    ∀ t ∈ s.spriteAt x y n, t.row < s.cfg.fbHeight ∧ t.col < s.cfg.fbWidth := by
  obtain ⟨hwidth, hheight, -⟩ := hwf
  exact spriteTouches_inside (by omega) (by omega)

include hn

/-- The smallest legal grid holds the largest sprite, so no pixel is touched twice. -/
theorem State.spriteAt_apart : touchesApart (s.spriteAt x y n) := by
  obtain ⟨hwidth, hheight, -⟩ := hwf
  exact spriteTouches_apart hwidth (by rw [State.readBlock_length]; omega)

variable {fb : Framebuffer} (hfb : fbShape s.cfg fb)
include hfb

/-- A draw toggles the pixels under the sprite's 1 bits and no other. -/
theorem pixelAt_draw_iff {r c : Nat} (hr : r < s.cfg.fbHeight) (hc : c < s.cfg.fbWidth) :
    pixelAt (drawTouches fb (s.spriteAt x y n)).1 r c = true ↔
      (pixelAt fb r c = true ↔ ¬ s.SpriteLights x y n r c) := by
  rw [pixelAt_drawTouches hfb (State.spriteAt_inside hwf) hr hc, State.spriteLights_iff,
    ← touchParity_eq_true (State.spriteAt_apart hwf hn)]
  cases pixelAt fb r c <;> simp

/-- A draw collides when a set pixel lies under a 1 bit of the sprite. -/
theorem draw_collides_iff :
    (drawTouches fb (s.spriteAt x y n)).2 = true ↔
      ∃ r < s.cfg.fbHeight, ∃ c < s.cfg.fbWidth,
        pixelAt fb r c = true ∧ s.SpriteLights x y n r c := by
  have hin := State.spriteAt_inside (x := x) (y := y) (n := n) hwf
  rw [collision_drawTouches hfb hin (State.spriteAt_apart hwf hn)]
  constructor
  · rintro ⟨t, ht, hp, hb⟩
    exact ⟨t.row, (hin t ht).1, t.col, (hin t ht).2, hp,
      State.spriteLights_iff.mpr ⟨t, ht, rfl, rfl, hb⟩⟩
  · rintro ⟨r, -, c, -, hp, hl⟩
    obtain ⟨t, ht, rfl, rfl, hb⟩ := State.spriteLights_iff.mp hl
    exact ⟨t, ht, hp, hb⟩

/-- A second draw collides when a 1 bit of the sprite lies on a pixel that was clear before the first. -/
theorem second_draw_collides_iff :
    (drawTouches (drawTouches fb (s.spriteAt x y n)).1 (s.spriteAt x y n)).2 = true ↔
      ∃ r < s.cfg.fbHeight, ∃ c < s.cfg.fbWidth,
        pixelAt fb r c = false ∧ s.SpriteLights x y n r c := by
  rw [draw_collides_iff hwf hn (fbShape_drawTouches hfb _)]
  refine exists_congr fun r => and_congr_right fun hr => exists_congr fun c =>
    and_congr_right fun hc => and_congr_left fun hl => ?_
  rw [pixelAt_draw_iff hwf hn hfb hr hc]
  simp [hl]

end

/-- Settles O49: the draw runs, and its pixels and its collision are those of the sprite's 1 bits. -/
theorem drawTogglesTheSpritesPixels : Obligations.DrawTogglesTheSpritesPixels := by
  unfold Obligations.DrawTogglesTheSpritesPixels
  intro x y n s hwf hfb hn hend
  exact ⟨s.drawn x y n, _, exec_drw_of_inside hend, rfl, fbShape_drawTouches hfb _,
    fun r hr c hc => pixelAt_draw_iff hwf hn hfb hr hc, flagByte_eq _,
    flagByte_eq_one_iff.trans (draw_collides_iff hwf hn hfb)⟩

/-! ## Drawing twice -/

/-- The same sprite drawn twice restores a grid of any size: each pixel is toggled twice with one parity. -/
theorem drawTouches_spriteAt_twice {fb : Framebuffer} (hfb : fbShape s.cfg fb) :
    (drawTouches (drawTouches fb (s.spriteAt x y n)).1 (s.spriteAt x y n)).1 = fb := by
  have hfirst := fbShape_drawTouches hfb (s.spriteAt x y n)
  refine fb_ext (fbShape_drawTouches hfirst _) hfb fun r hr c hc => ?_
  have hin : ∀ t ∈ s.spriteAt x y n, t.row < s.cfg.fbHeight ∧ t.col < s.cfg.fbWidth :=
    spriteTouches_inside (Nat.zero_lt_of_lt hr) (Nat.zero_lt_of_lt hc)
  rw [pixelAt_drawTouches hfirst hin hr hc, pixelAt_drawTouches hfb hin hr hc, Bool.xor_assoc,
    Bool.xor_self, Bool.xor_false]

/-- Settles O51: the second draw touches the same pixels on the framebuffer the first one left. -/
theorem drawingTwiceRestoresTheFramebuffer : Obligations.DrawingTwiceRestoresTheFramebuffer := by
  unfold Obligations.DrawingTwiceRestoresTheFramebuffer
  intro x y n s t u w hfb hend hfirst hcfg hufb hx hy hi hmem hsecond
  have hsame : u.spriteAt x y n = s.spriteAt x y n := State.spriteAt_congr hcfg hx hy hi hmem
  obtain rfl := Host.Outcome.next.inj ((exec_drw_of_inside hend).symm.trans hfirst)
  obtain rfl := Host.Outcome.next.inj ((exec_drw_of_inside (hi ▸ hend)).symm.trans hsecond)
  rw [State.drawn_flag, flagByte_eq_one_iff, State.drawn_fb, hsame, hufb, State.drawn_fb]
  exact ⟨drawTouches_spriteAt_twice hfb, fun hwf hn => second_draw_collides_iff hwf hn hfb⟩

end Sys2Proof.Machine
end

section
/-! The timers (spec/45_timers.md): what each instruction writes, and the decay of the delay timer. -/

namespace Sys2Proof.Machine

variable {s t : State} {x : Reg}

/-- Settles O52: each instruction is one write to a register or a timer and an advance, with `DT_TICK_MS` as
15. -/
theorem timerInstructions : Obligations.TimerInstructions := by
  unfold Obligations.TimerInstructions
  exact fun x s => ⟨rfl, rfl, rfl⟩

/-! ## The decay of the delay timer (R101) -/

/-- `LD DT, Vx` leaves `V[x]` and the sampled time in the delay timer (R99). -/
theorem ldDTVx_sets_delay (h : exec (.ldDTVx x) s = .next t) :
    t.dtValue = s.v[x] ∧ t.dtStart = s.input.now := by
  obtain rfl := Host.Outcome.next.inj h
  exact ⟨rfl, rfl⟩

/-- `LD Vx, DT` leaves in `V[x]` the set value less the whole ticks elapsed (R98). -/
theorem ldVxDT_reads_delay (h : exec (.ldVxDT x) s = .next t) :
    t.v[x].toNat = s.dtValue.toNat - (s.input.now - s.dtStart) / dtTickMs := by
  obtain rfl := Host.Outcome.next.inj h
  have hwritten := (s.setReg_get x x (delayLive s.dtValue s.dtStart s.input.now)).trans (if_pos rfl)
  rw [State.advance_v, hwritten, delayLive_toNat]

theorem ticks_eq {start now k : Nat} (hge : start + 15 * k ≤ now) (hlt : now < start + 15 * (k + 1)) :
    (now - start) / dtTickMs = k := by
  rw [dtTickMs]
  omega

theorem le_ticks {start now n : Nat} (h : start + 15 * n ≤ now) : n ≤ (now - start) / dtTickMs := by
  rw [dtTickMs]
  omega

/-- Settles O53: the value read depends on the set value and on the whole ticks since it was set. -/
theorem delayTimerDecaysByWallClock : Obligations.DelayTimerDecaysByWallClock := by
  unfold Obligations.DelayTimerDecaysByWallClock
  intro x y s t u w k hset hvalue hstart hread
  obtain ⟨hsetValue, hsetStart⟩ := ldDTVx_sets_delay hset
  have hlive : w.v[y].toNat = s.v[x].toNat - (u.input.now - s.input.now) / dtTickMs := by
    rw [ldVxDT_reads_delay hread, hvalue, hstart, hsetValue, hsetStart]
  rw [hlive]
  constructor
  case left =>
    intro _ hge hlt
    rw [ticks_eq hge hlt]
  case right =>
    intro hpast
    exact Nat.sub_eq_zero_of_le (le_ticks hpast)

end Sys2Proof.Machine
end

section
/-! The key wait (spec/46_keywait.md): its result is decided by what the scan of the slots finds. -/

namespace Sys2Proof.Machine

variable {s : State} {x : Reg}

/-- The scan found slot `k`: its number is written and the wait is over (R104). -/
theorem execLdVxK_of_found {k : Nat} (hscan : s.firstUnpressed = some k) :
    execLdVxK x s = .next (s.setReg x (BitVec.ofNat 8 k)).advance := by
  rw [execLdVxK, hscan, keyWaitResult]

/-- The scan found no slot: the wait stalls in the state it began in (R105). -/
theorem execLdVxK_of_none (hscan : s.firstUnpressed = none) : execLdVxK x s = .next s := by
  rw [execLdVxK, hscan, keyWaitResult]

/-- Sampling the inputs of a step is no change of the architectural state. -/
theorem State.sameArch_beginStep (s : State) : s.SameArch s.beginStep := by
  constructor <;> simp

/-- Settles O54: the scan finds slot `k`. -/
theorem keyWaitTakesTheFirstUnpressedSlot : Obligations.KeyWaitTakesTheFirstUnpressedSlot := by
  unfold Obligations.KeyWaitTakesTheFirstUnpressedSlot
  intro x s k hslot hunpressed hlower
  exact execLdVxK_of_found (State.firstUnpressed_some.mpr ⟨hslot, hunpressed, hlower⟩)

/-- Settles O55: the scan finds no slot, so the step only samples its inputs. -/
theorem stalledKeyWaitKeepsTheState : Obligations.StalledKeyWaitKeepsTheState := by
  unfold Obligations.StalledKeyWaitKeepsTheState
  intro x s hf hpc hd hpressed
  have hstall : execLdVxK x s.beginStep = .next s.beginStep :=
    execLdVxK_of_none (State.firstUnpressed_none.mpr hpressed)
  exact ⟨s.beginStep, (step_of_instruction hf hpc hd).trans hstall, s.sameArch_beginStep,
    s.beginStep_fetchWord, s.beginStep_out⟩

end Sys2Proof.Machine
end

section
/-! The step as a transaction (spec/50_interfaces.md R107, R108): it always answers a next state, it samples its
inputs once, and on an unfaulted core it runs the decoded instruction. -/

namespace Sys2Proof.Machine

variable {s t u : State}

/-! ## Totality (spec/90_conflicts.md C3) -/

theorem checkBlock_total (count : Nat) (s u : State) : ∃ t, checkBlock count s (.next u) = .next t := by
  by_cases hin : count = 0 ∨ s.i.toNat + count ≤ 4096
  · exact ⟨u, checkBlock_of_inside hin⟩
  · exact ⟨_, checkBlock_of_outside (by omega) (by omega)⟩

theorem checkKeyIndex_total (x : Reg) (s u : State) : ∃ t, checkKeyIndex x s (.next u) = .next t := by
  by_cases hslot : s.v[x].toNat ≤ 15
  · exact ⟨u, checkKeyIndex_of_slot hslot⟩
  · exact ⟨_, checkKeyIndex_of_no_slot (by omega)⟩

theorem execCall_total (nnn : Addr12) (s : State) : ∃ t, execCall nnn s = .next t := by
  by_cases hsp : s.sp.val < 16
  · exact ⟨_, execCall_of_room hsp⟩
  · exact ⟨_, execCall_of_full (by omega)⟩

theorem execRet_total (s : State) : ∃ t, execRet s = .next t := by
  by_cases hsp : 0 < s.sp.val
  · exact ⟨_, execRet_of_entry hsp⟩
  · exact ⟨_, execRet_of_empty (by omega)⟩

/-- Every instruction answers a next state, its fault included. -/
theorem exec_total (i : Instr) (s : State) : ∃ t, exec i s = .next t := by
  cases i with
  | call nnn => exact execCall_total nnn s
  | ret => exact execRet_total s
  | skp _ | sknp _ => exact checkKeyIndex_total _ s _
  | drw _ _ _ | ldB _ | storeRegs _ | loadRegs _ => exact checkBlock_total _ s _
  | _ => exact ⟨_, rfl⟩

theorem step_total (s : State) : ∃ t, step s = .next t := by
  by_cases hf : s.fault.cause = .noFault
  · by_cases hpc : s.pc.toNat ≤ 4094
    · cases hd : decodeWord s.fetchWord with
      | none => exact ⟨_, step_of_unrecognised hf hpc hd⟩
      | some i => simpa only [step_of_instruction hf hpc hd] using exec_total i s.beginStep
    · exact ⟨_, step_of_fetch_fault hf (by omega)⟩
  · exact ⟨_, step_of_faulted hf⟩

/-- Settles O13: each of the four things a step can do answers a next state. -/
theorem everyStepAnswersANextState : Obligations.EveryStepAnswersANextState := by
  unfold Obligations.EveryStepAnswersANextState
  exact step_total

/-! ## Sampling -/

/-- A step keeps the parameters and the inputs of its one sampling. -/
theorem step_sameContext (h : step s = .next t) : s.beginStep.SameContext t := by
  obtain ⟨-, rfl⟩ | ⟨-, -, rfl⟩ | ⟨-, -, -, rfl⟩ | ⟨i, -, -, -, hexec⟩ := step_cases h
  · exact ⟨rfl, rfl, rfl, rfl⟩
  · exact State.sameContext_recordFault _ _
  · exact ⟨rfl, rfl, rfl, rfl⟩
  · exact exec_sameContext hexec

/-- The transaction `Step(inp)` is the step of the state that is given `inp`, and answers its outputs. -/
theorem perform_step {inp : StepInput} (h : step (s.supply inp) = .next t) :
    perform (.step inp) s = .next (t, .stepped t.out) :=
  congrArg stepResponse h

/-- Settles O7: the sampling by its two cases, its hold over the step by `step_sameContext`, and the
transaction as the step of the state that is given its inputs. -/
theorem stepSamplesItsInputsOnce : Obligations.StepSamplesItsInputsOnce := by
  unfold Obligations.StepSamplesItsInputsOnce
  refine ⟨fun s => ⟨fun _ _ => State.beginStep_of_pending, State.beginStep_of_empty⟩,
    fun s t h => ?held, fun inp s => ?transaction⟩
  case held =>
    obtain ⟨-, hinput, hpending, hsamples⟩ := step_sameContext h
    exact ⟨hinput, hpending, hsamples⟩
  case transaction =>
    obtain ⟨t, h⟩ := step_total (s.supply inp)
    obtain ⟨-, hinput, hpending, hsamples⟩ := step_sameContext h
    exact ⟨t, h, perform_step h, hinput, hpending, hsamples⟩

/-! ## The decoded instruction -/

/-- Settles O8: the two bytes at `pc` are the fetched word. -/
theorem stepRunsTheDecodedInstruction : Obligations.StepRunsTheDecodedInstruction := by
  unfold Obligations.StepRunsTheDecodedInstruction
  intro s i hf hpc hd
  exact step_of_instruction hf hpc (decode_two.mp hd)

end Sys2Proof.Machine
end

section
/-! The host's other transactions (spec/50_interfaces.md R109 to R118; spec/60_exceptions.md R130). -/

namespace Sys2Proof.Machine

variable {s : State} {bytes : List Byte}

theorem perform_loadROM_of_fits (h : bytes.length ≤ 3584) :
    perform (.loadROM bytes) s = .next (s.setMem (s.memWith romBase bytes), .loaded .ok) := by
  have hload : s.loadROM bytes = (.ok, s.setMem (s.memWith romBase bytes)) := if_pos h
  rw [perform, hload]

theorem perform_loadROM_of_oversized (h : 3584 < bytes.length) :
    perform (.loadROM bytes) s = .next (s, .loaded .romTooLarge) := by
  have hload : s.loadROM bytes = (.romTooLarge, s) := if_neg (Nat.not_le.mpr h)
  rw [perform, hload]

/-- Settles O58: an image that fits is one block stored at 0x200, which ends inside memory. -/
theorem loadRomCopiesTheImage : Obligations.LoadRomCopiesTheImage := by
  unfold Obligations.LoadRomCopiesTheImage
  intro s bytes hwf hfits
  have hend : 0x200 + bytes.length ≤ 4096 := by omega
  exact ⟨_, perform_loadROM_of_fits hfits, rfl,
    fun k hk => readByte_memWith_inside hwf hend hk, fun a ha => readByte_memWith_outside hwf hend ha⟩

/-- Settles O59: the length check comes before the first byte. -/
theorem oversizedRomChangesNothing : Obligations.OversizedRomChangesNothing := by
  unfold Obligations.OversizedRomChangesNothing
  exact fun s bytes => perform_loadROM_of_oversized

/-- Settles O57: the reset state takes the parameters of `s` and the time that is given. -/
theorem resetTakesTheTimeItIsGiven : Obligations.ResetTakesTheTimeItIsGiven := by
  unfold Obligations.ResetTakesTheTimeItIsGiven
  exact fun s now => ⟨rfl, rfl, rfl⟩

/-- Settles O60: each of the five is one arm of `perform`. -/
theorem acknowledgeClearsOnlyDirty : Obligations.AcknowledgeClearsOnlyDirty := by
  unfold Obligations.AcknowledgeClearsOnlyDirty
  exact fun s => ⟨rfl, rfl, rfl, rfl, rfl⟩

end Sys2Proof.Machine
end

section
/-! Faults (spec/60_exceptions.md): what a faulting step changes (R123), when an instruction faults (R122, R127),
and that a faulted core does nothing (R124). -/

namespace Sys2Proof.Machine

variable {i : Instr} {s t u : State}

/-! ## Precision -/

/-- An instruction keeps the fault record, or recording a fault is all it does. -/
theorem Effect.fault_cases (he : Effect i s t) :
    t.fault = s.fault ∨ ∃ c info, t = s.recordFault c info := by
  cases he with
  | fault c info hc => exact .inr ⟨c, info, rfl⟩
  | _ => exact .inl rfl

theorem step_fault_cases (h : step s = .next t) :
    t.fault = s.fault ∨ ∃ c info, t = s.beginStep.recordFault c info := by
  obtain ⟨-, rfl⟩ | ⟨-, -, rfl⟩ | ⟨-, -, -, rfl⟩ | ⟨i, -, -, -, hexec⟩ := step_cases h
  · exact .inl s.beginStep_fault
  · exact .inr ⟨_, _, rfl⟩
  · exact .inl s.beginStep_fault
  · simpa using (exec_effect hexec).fault_cases

/-- Settles O14: a step that does not keep the fault record is the sampling and one `State.recordFault`. -/
theorem faultsArePrecise : Obligations.FaultsArePrecise := by
  unfold Obligations.FaultsArePrecise
  intro s t hstep hs ht
  obtain hkept | ⟨c, info, rfl⟩ := step_fault_cases hstep
  · exact absurd (hkept ▸ hs) ht
  · exact ⟨s.beginStep_pc, by simp [State.recordFault, StepOutput.quiet]⟩

/-! ## The fault-free conditions -/

theorem next_unfaulted (h : (.next u : Result) = .next t) (hu : u.fault.cause = .noFault) :
    t.fault.cause = .noFault ↔ True :=
  iff_true_intro (Host.Outcome.next.inj h ▸ hu)

/-- A block check before an update that keeps the core unfaulted adds its own fault and no other. -/
theorem checkBlock_unfaulted {count : Nat} (h : checkBlock count s (.next u) = .next t)
    (hu : u.fault.cause = .noFault) :
    t.fault.cause = .noFault ↔ count = 0 ∨ s.i.toNat + count ≤ 4096 := by
  obtain ⟨hbody, hin⟩ | ⟨hne, hout, rfl⟩ := checkBlock_cases h
  · exact iff_of_true (Host.Outcome.next.inj hbody ▸ hu) hin
  · exact iff_of_false nofun (by omega)

theorem checkKeyIndex_unfaulted {x : Reg} (h : checkKeyIndex x s (.next u) = .next t)
    (hu : u.fault.cause = .noFault) : t.fault.cause = .noFault ↔ s.v[x].toNat ≤ 15 := by
  obtain ⟨hbody, hslot⟩ | ⟨hout, rfl⟩ := checkKeyIndex_cases h
  · exact iff_of_true (Host.Outcome.next.inj hbody ▸ hu) hslot
  · exact iff_of_false nofun (Nat.not_le.mpr hout)

theorem execCall_unfaulted {nnn : Addr12} (h : execCall nnn s = .next t)
    (hs : s.fault.cause = .noFault) : t.fault.cause = .noFault ↔ s.sp.val < 16 := by
  obtain ⟨hsp, rfl⟩ | ⟨hsp, rfl⟩ := execCall_cases h
  · exact iff_of_true hs hsp
  · exact iff_of_false nofun (Nat.not_lt.mpr hsp)

theorem execRet_unfaulted (h : execRet s = .next t) (hs : s.fault.cause = .noFault) :
    t.fault.cause = .noFault ↔ 0 < s.sp.val := by
  obtain ⟨hsp, rfl⟩ | ⟨hsp, rfl⟩ := execRet_cases h
  · exact iff_of_true hs hsp
  · exact iff_of_false nofun (Nat.not_lt.mpr hsp.le)

theorem keyWaitResult_fault (x : Reg) (s : State) (slot : Option Nat) :
    (keyWaitResult x s slot).fault = s.fault := by
  cases slot with
  | none => rfl
  | some k => rfl

/-- An instruction begun unfaulted ends unfaulted exactly when its condition of R127 holds: the named cases
have a check or can stall, and the blocks are of 3, `x + 1`, `x + 1` and `n` bytes. -/
theorem exec_unfaulted_iff (hs : s.fault.cause = .noFault) (h : exec i s = .next t) :
    t.fault.cause = .noFault ↔ faultFree i s := by
  cases i with
  | call nnn => exact execCall_unfaulted h hs
  | ret => exact execRet_unfaulted h hs
  | skp x | sknp x => exact checkKeyIndex_unfaulted h hs
  | ldB _ | storeRegs _ | loadRegs _ | drw _ _ _ =>
    exact (checkBlock_unfaulted h hs).trans (by simp only [faultFree]; omega)
  | ldVxK x => exact next_unfaulted h ((keyWaitResult_fault x s _).symm ▸ hs)
  | _ => exact next_unfaulted h hs

/-- Settles O15, by the checks of the instructions. -/
theorem faultFreeConditionsAreExact : Obligations.FaultFreeConditionsAreExact := by
  unfold Obligations.FaultFreeConditionsAreExact
  exact fun i s t => exec_unfaulted_iff

/-! ## A faulted core -/

/-- Settles O12: its step is the sampling alone. -/
theorem faultedCoreExecutesNothing : Obligations.FaultedCoreExecutesNothing := by
  unfold Obligations.FaultedCoreExecutesNothing
  intro s hf
  exact ⟨s.beginStep, step_of_faulted hf, s.sameArch_beginStep, s.beginStep_cfg, s.beginStep_out⟩

end Sys2Proof.Machine
end

section
/-! Reset (spec/70_reset_and_hazards.md R138, R139): its values, and the invariant they meet. -/

namespace Sys2Proof.Machine

variable {s t : State}

theorem State.resetWith_readByte (c : Config) (now a : Nat) :
    (State.resetWith c now).readByte a = if a < 80 then c.fontTable.getD a 0 else 0 := rfl

theorem State.resetWith_pixel (c : Config) (now row col : Nat) :
    pixelAt (State.resetWith c now).fb row col = false := by
  have hclear : clearedFb (State.resetWith c now).fb = (State.resetWith c now).fb := by
    simp [clearedFb, State.resetWith]
  rw [← hclear]
  exact pixelAt_clearedFb _ row col

theorem State.resetWith_inv (c : Config) (now : Nat) : (State.resetWith c now).Inv where
  memory := ⟨.nil, nofun⟩
  framebuffer := fbShape_blank c
  counter := show (BitVec.ofNat 16 romBase).toNat ≤ 0x10FE by decide
  returns k := by simp [State.resetWith]

/-- Settles O17: memory lists no cell, the grid is blank, `pc` is 0x200 and every entry is 0. -/
theorem resetMeetsTheInvariant : Obligations.ResetMeetsTheInvariant := by
  unfold Obligations.ResetMeetsTheInvariant
  exact ⟨State.resetWith_inv _ _, State.resetWith_inv⟩

/-- Both resets are `State.resetWith` up to the inputs still to come and their counter (log 12). -/
theorem reset_eq_resetWith (h : t = State.reset ∨ ∃ s now, t = State.hostReset s now) :
    ∃ c now inputs n, t = { State.resetWith c now with pending := inputs, samples := n } := by
  obtain rfl | ⟨s, now, rfl⟩ := h
  · exact ⟨defaultConfig, 0, [], 0, rfl⟩
  · exact ⟨s.cfg, now, s.pending, s.samples, rfl⟩

/-- Settles O56: the values of `State.resetWith`, field by field. -/
theorem resetGivesTheListedValues : Obligations.ResetGivesTheListedValues := by
  unfold Obligations.ResetGivesTheListedValues
  intro t ht
  obtain ⟨c, now, inputs, n, rfl⟩ := reset_eq_resetWith ht
  refine ⟨fun k => ?registers, rfl, rfl, fun k => ?entries, rfl, fun a ha => ?font, fun a ha => ?zeros,
    fbShape_blank c, State.resetWith_pixel c now, rfl, rfl, rfl, rfl⟩
  case registers | entries => simp [State.resetWith]
  case font => exact (State.resetWith_readByte c now a).trans (if_pos ha)
  case zeros => exact (State.resetWith_readByte c now a).trans (if_neg (Nat.not_lt.mpr ha))

end Sys2Proof.Machine
end

section
/-! The steps that leave the architectural state as it was (spec/70_reset_and_hazards.md R149). -/

namespace Sys2Proof.Machine

variable {i : Instr} {s t u : State}

/-! ## Updates that show in the architectural state -/

theorem not_sameArch_of_pc (h : t.pc ≠ s.pc) : ¬ s.SameArch t := fun hsame => h hsame.pc

theorem add_two_ne (p : Word) : p + 2 ≠ p := by simp

theorem skipIf_not_sameArch (c : Bool) : ¬ s.SameArch (s.skipIf c) := by
  cases c with
  | false => exact not_sameArch_of_pc (add_two_ne s.pc)
  | true => exact not_sameArch_of_pc (by simp)

/-- On an unfaulted core a recorded fault shows in the fault record. -/
theorem recordFault_not_sameArch {c : FaultCause} {info : Word} (hs : s.fault.cause = .noFault)
    (hc : c ≠ .noFault) : ¬ s.SameArch (s.recordFault c info) :=
  fun hsame => hc ((congrArg FaultRecord.cause hsame.fault).trans hs)

theorem next_not_sameArch (h : (.next u : Result) = .next t) (hu : ¬ s.SameArch u) : ¬ s.SameArch t :=
  Host.Outcome.next.inj h ▸ hu

theorem checkBlock_not_sameArch {count : Nat} (h : checkBlock count s (.next u) = .next t)
    (hs : s.fault.cause = .noFault) (hu : ¬ s.SameArch u) : ¬ s.SameArch t := by
  obtain ⟨hbody, -⟩ | ⟨-, -, rfl⟩ := checkBlock_cases h
  · exact next_not_sameArch hbody hu
  · exact recordFault_not_sameArch hs nofun

theorem checkKeyIndex_not_sameArch {x : Reg} (h : checkKeyIndex x s (.next u) = .next t)
    (hs : s.fault.cause = .noFault) (hu : ¬ s.SameArch u) : ¬ s.SameArch t := by
  obtain ⟨hbody, -⟩ | ⟨-, rfl⟩ := checkKeyIndex_cases h
  · exact next_not_sameArch hbody hu
  · exact recordFault_not_sameArch hs nofun

/-- A `CALL` shows in the stack pointer, wherever it goes. -/
theorem execCall_not_sameArch {nnn : Addr12} (h : execCall nnn s = .next t)
    (hs : s.fault.cause = .noFault) : ¬ s.SameArch t := by
  obtain ⟨hsp, rfl⟩ | ⟨-, rfl⟩ := execCall_cases h
  · intro hsame
    have hval : s.sp.val + 1 = s.sp.val := congrArg Fin.val hsame.sp
    omega
  · exact recordFault_not_sameArch hs nofun

theorem execRet_not_sameArch (h : execRet s = .next t) (hs : s.fault.cause = .noFault) :
    ¬ s.SameArch t := by
  obtain ⟨hsp, rfl⟩ | ⟨-, rfl⟩ := execRet_cases h
  · intro hsame
    have hval : s.sp.val - 1 = s.sp.val := congrArg Fin.val hsame.sp
    omega
  · exact recordFault_not_sameArch hs nofun

/-! ## The instructions that do not show -/

theorem keyWaitResult_sameArch {x : Reg} {slot : Option Nat} (h : s.SameArch (keyWaitResult x s slot)) :
    slot = none := by
  cases slot with
  | none => rfl
  | some k => exact absurd h (not_sameArch_of_pc (add_two_ne s.pc))

/-- An instruction that leaves an unfaulted state as it was is a jump to its own address or a stalled key
wait. -/
theorem exec_sameArch (hs : s.fault.cause = .noFault) (h : exec i s = .next t) (hsame : s.SameArch t) :
    (∃ nnn, i = .jp nnn ∧ zext16 nnn = s.pc) ∨ (∃ nnn, i = .jpV0 nnn ∧ jumpV0Target nnn s = s.pc) ∨
      ∃ x, i = .ldVxK x ∧ s.firstUnpressed = none := by
  cases i with
  | jp nnn => exact .inl ⟨nnn, rfl, (congrArg State.pc (Host.Outcome.next.inj h)).trans hsame.pc⟩
  | jpV0 nnn =>
    exact .inr (.inl ⟨nnn, rfl, (congrArg State.pc (Host.Outcome.next.inj h)).trans hsame.pc⟩)
  | ldVxK x =>
    exact .inr (.inr ⟨x, rfl, keyWaitResult_sameArch (Host.Outcome.next.inj h ▸ hsame)⟩)
  | call nnn => exact absurd hsame (execCall_not_sameArch h hs)
  | ret => exact absurd hsame (execRet_not_sameArch h hs)
  | seImm _ _ | sneImm _ _ | seReg _ _ _ | sneReg _ _ _ =>
    exact absurd hsame (next_not_sameArch h (skipIf_not_sameArch _))
  | skp _ | sknp _ => exact absurd hsame (checkKeyIndex_not_sameArch h hs (skipIf_not_sameArch _))
  | drw _ _ _ | ldB _ | storeRegs _ | loadRegs _ =>
    exact absurd hsame (checkBlock_not_sameArch h hs (not_sameArch_of_pc (add_two_ne s.pc)))
  | _ => exact absurd hsame (next_not_sameArch h (not_sameArch_of_pc (add_two_ne s.pc)))

/-! ## The step -/

/-- A step that leaves the architectural state of `s` leaves that of the sampled state. -/
theorem State.SameArch.of_beginStep (h : s.SameArch t) : s.beginStep.SameArch t := by
  obtain ⟨hv, hpc, hi, hstack, hsp, hmem, hfb, hdirty, hdtValue, hdtStart, hst, hfault⟩ := h
  constructor <;> simp [*]

/-- Settles O18: a fetch fault shows in the fault record, an unrecognised word in `pc`, and an instruction by
`exec_sameArch` on the sampled state. -/
theorem onlySelfJumpOrStallKeepsTheState : Obligations.OnlySelfJumpOrStallKeepsTheState := by
  unfold Obligations.OnlySelfJumpOrStallKeepsTheState
  intro s t hstep hs hsame
  have hs' : s.beginStep.fault.cause = .noFault := by simpa using hs
  have hsame' := hsame.of_beginStep
  obtain ⟨hf, -⟩ | ⟨-, -, rfl⟩ | ⟨-, -, -, rfl⟩ | ⟨i, -, -, hd, hexec⟩ := step_cases hstep
  · exact absurd hs hf
  · exact absurd hsame' (recordFault_not_sameArch hs' nofun)
  · exact absurd hsame' (not_sameArch_of_pc (add_two_ne s.beginStep.pc))
  · obtain ⟨nnn, rfl, hpc⟩ | ⟨nnn, rfl, hpc⟩ | ⟨x, rfl, hscan⟩ := exec_sameArch hs' hexec hsame'
    · exact .inl ⟨nnn, hd, hpc.trans s.beginStep_pc⟩
    · exact .inr (.inl ⟨nnn, hd, by simpa [jumpV0Target, zext16] using hpc⟩)
    · refine .inr (.inr ⟨x, hd, ?_⟩)
      rw [(exec_sameContext hexec).input]
      exact State.firstUnpressed_none.mp hscan

end Sys2Proof.Machine
end
